-- ==== Sys2Proof/Word.lean ====
section
/-! DEFINITION. The data types of the block: bytes, 32-bit register values, 4-byte words, 4x4 byte states and
16-byte blocks (spec 00_scope.md R8, R9 and the glossary). -/

namespace Sys2Proof

/-- A byte, 0..255 (00_scope.md R8). -/
abbrev Byte := BitVec 8

/-- The value of one 32-bit register of the window, or one command word (00_scope.md R7, R8). -/
abbrev Word32 := BitVec 32

/-- The glossary's Word: an ordered sequence of exactly 4 bytes, byte 0 first. `t[k]` is `t.b[k]` (R9, R135). -/
abbrev Quad := Vector Byte 4

/-- A 4x4 byte matrix: `M[r][c]` is the byte at row `r` and column `c` (R9). `S` and `RK` are of this type. -/
abbrev Matrix := Vector Quad 4

/-- A block: 16 bytes `B[0..15]` (R9). -/
abbrev Block := Vector Byte 16

/-- The matrix whose byte at row `r` and column `c` is `f r c`. -/
def Matrix.ofFn (f : Fin 4 → Fin 4 → Byte) : Matrix :=
  Vector.ofFn fun r => Vector.ofFn fun c => f r c

/-- The word of four zero bytes. -/
def zeroQuad : Quad := #v[0, 0, 0, 0]

/-- The matrix of sixteen zero bytes. -/
def zeroMatrix : Matrix := #v[zeroQuad, zeroQuad, zeroQuad, zeroQuad]

end Sys2Proof
end

