-- ==== Sys2Proof/Config.lean ====
section
/-! DEFINITION. What an implementation fixes and what the spec leaves free: the parameters of 00_scope.md R7, the
free value `draw()` of R10, and the window's constants. A constant without a body is OPEN: nothing can be proved
about its value, so a claim holds for every value. -/

namespace Sys2Proof.Config

/-- `BASE`, the bus address of register offset 0x00: OPEN (00_scope.md R7, 92_eei_decisions.md D36; log entry 10). -/
opaque base : Nat

/-- `ALLOW_AES192`: whether EXPAND accepts CFG.KS = 01 (00_scope.md R7, 92_eei_decisions.md D2; log entry 10). -/
opaque allowAes192 : Bool

/-- `draw()`: the value the model leaves free (00_scope.md R10, 70_reset_and_hazards.md R257). The `n`-th draw of a
run is `draw n`; `State.draws` is the number of draws made so far (log entry 4). -/
opaque draw : Nat → BitVec 32

/-- What a word of the expanded-key store beyond its sixty would be: a free value. No accepted command reads one
(41_key_schedule.md R136; log entry 14). -/
opaque beyondStore : Nat → BitVec 32

/-- The size of the register window in bytes (00_scope.md R7, 20_memory.md R70). -/
def windowSize : Nat := 0x80

/-- What ID reads: the letters "AES" and the revision 0x01 (10_state.md R27). -/
def idWord : Word32 := 0x41455301

end Sys2Proof.Config
end

