-- ==== Sys2Proof/Syntax.lean ====
section
/-! DEFINITION. The commands of the block: one constructor per row of the opcode map (30_encoding.md R93), the operand
formats (R91), the pseudo-instructions (R100) and the host-program notation (R101). -/

namespace Sys2Proof

/-- A decoded command. `rnd` is the RND field, a round index 0..15; `a` and `b` are the byte operands (R90, R92). -/
inductive Instr where
  /-- OP 0x00: no operation (R154). -/
  | nop
  /-- OP 0x01: load `S` from DIN (R152). -/
  | ldst
  /-- OP 0x02: store `S` to DOUT (R153). -/
  | stst
  /-- OP 0x03: expand KEY into `W` (R132). -/
  | expand
  /-- OP 0x04: encrypt the DIN block (R202). -/
  | encb
  /-- OP 0x05: decrypt the DIN block (R203). -/
  | decb
  /-- OP 0x06: one forward round (R200). -/
  | rnde (rnd : Nat)
  /-- OP 0x07: one inverse round (R201). -/
  | rndd (rnd : Nat)
  /-- OP 0x08: SubBytes (R170). -/
  | sub
  /-- OP 0x09: InvSubBytes (R171). -/
  | isub
  /-- OP 0x0A: ShiftRows (R174). -/
  | shr
  /-- OP 0x0B: InvShiftRows (R175). -/
  | ishr
  /-- OP 0x0C: MixColumns (R178). -/
  | mix
  /-- OP 0x0D: InvMixColumns (R179). -/
  | imix
  /-- OP 0x0E: AddRoundKey (R182). -/
  | ark (rnd : Nat)
  /-- OP 0x0F: load a round key into `RK` (R137). -/
  | ldrk (rnd : Nat)
  /-- OP 0x10: field multiply (R116). -/
  | gfmul (a b : Byte)
  /-- OP 0x11: field doubling (R117). -/
  | gfdbl (a : Byte)
  /-- OP 0x12: forward S-box lookup (R172). -/
  | sbox (a : Byte)
  /-- OP 0x13: inverse S-box lookup (R173). -/
  | isbox (a : Byte)
  deriving DecidableEq, Repr

/-- The four operand formats (R91). -/
inductive Format where
  /-- no operand -/
  | f0
  /-- RND -/
  | fr
  /-- A -/
  | fa
  /-- A and B -/
  | fab
  deriving DecidableEq, Repr

/-- The pseudo-instructions (R100). -/
inductive Pseudo where
  | xtime (a : Byte)
  | gfmul3 (a : Byte)
  | gfmul9 (a : Byte)
  | gfmul11 (a : Byte)
  | gfmul13 (a : Byte)
  | gfmul14 (a : Byte)
  | initrk
  deriving DecidableEq, Repr

/-- An assembler line after lexing: the mnemonic as written and the operands' numbers (R99). -/
structure AsmLine where
  mnemonic : String
  operands : List Nat
  deriving DecidableEq, Repr

/-- A statement of the host-program notation (R101). `wait busyPolls` is one run of `WAIT`: `busyPolls` reads of
STATUS that see BUSY = 1 before the completion, then one read after it. -/
inductive HostStmt where
  | wr (off : Nat) (v : Word32)
  | rd (off : Nat)
  | cmd (i : Instr)
  | wait (busyPolls : Nat)
  deriving DecidableEq, Repr

end Sys2Proof
end

