-- ==== Sys2Proof/WellFormed.lean ====
section
/-! DEFINITION. When a command is well formed: its round index fits the 4-bit RND field (30_encoding.md R90, R92, R99).
The byte operands are bytes by their type. -/

namespace Sys2Proof

/-- The round index of a format FR command lies in 0..15, as R90 and R99 require. -/
def Instr.wf : Instr → Bool
  | .nop => true
  | .ldst => true
  | .stst => true
  | .expand => true
  | .encb => true
  | .decb => true
  | .rnde rnd => rnd < 16
  | .rndd rnd => rnd < 16
  | .sub => true
  | .isub => true
  | .shr => true
  | .ishr => true
  | .mix => true
  | .imix => true
  | .ark rnd => rnd < 16
  | .ldrk rnd => rnd < 16
  | .gfmul _ _ => true
  | .gfdbl _ => true
  | .sbox _ => true
  | .isbox _ => true

end Sys2Proof
end

