-- ==== Sys2Proof/Decode.lean ====
section
/-! DEFINITION. The command word (30_encoding.md): its fields, the total decoder `Decode(v)` of R96, the encoder of R99,
the assembler (R99), the pseudo-instructions (R100) and the table-word decoder of the host. -/

namespace Sys2Proof

/-! ### Fields of the command word (R90, R92) -/

/-- OP, bits 5:0. -/
def opField (v : Word32) : BitVec 6 := v.extractLsb' 0 6

/-- RND, bits 11:8. -/
def rndField (v : Word32) : BitVec 4 := v.extractLsb' 8 4

/-- A, bits 23:16. -/
def aField (v : Word32) : Byte := v.extractLsb' 16 8

/-- B, bits 31:24. -/
def bField (v : Word32) : Byte := v.extractLsb' 24 8

/-- The reserved bits 7:6 and 15:12 of the word, as a mask (R90). -/
def reservedMask : Word32 := 0x0000F0C0

/-- The mask of the fixed bits of a format (R91). -/
def Format.mask : Format → Word32
  | .f0 => 0xFFFFFFFF
  | .fr => 0xFFFFF0FF
  | .fa => 0xFF00FFFF
  | .fab => 0x0000FFFF

/-! ### The opcode map (R93) -/

/-- The OP value of a command (R93). -/
def Instr.opcode : Instr → BitVec 6
  | .nop => 0x00
  | .ldst => 0x01
  | .stst => 0x02
  | .expand => 0x03
  | .encb => 0x04
  | .decb => 0x05
  | .rnde _ => 0x06
  | .rndd _ => 0x07
  | .sub => 0x08
  | .isub => 0x09
  | .shr => 0x0A
  | .ishr => 0x0B
  | .mix => 0x0C
  | .imix => 0x0D
  | .ark _ => 0x0E
  | .ldrk _ => 0x0F
  | .gfmul _ _ => 0x10
  | .gfdbl _ => 0x11
  | .sbox _ => 0x12
  | .isbox _ => 0x13

/-- The operand format of a command (R93). -/
def Instr.format : Instr → Format
  | .nop => .f0
  | .ldst => .f0
  | .stst => .f0
  | .expand => .f0
  | .encb => .f0
  | .decb => .f0
  | .rnde _ => .fr
  | .rndd _ => .fr
  | .sub => .f0
  | .isub => .f0
  | .shr => .f0
  | .ishr => .f0
  | .mix => .f0
  | .imix => .f0
  | .ark _ => .fr
  | .ldrk _ => .fr
  | .gfmul _ _ => .fab
  | .gfdbl _ => .fa
  | .sbox _ => .fa
  | .isbox _ => .fa

/-! ### The decoder -/

/-- Why a word is ILLEGAL. The spec has one answer, ILLEGAL (R96); the reason is the model's name for the clause of
R94 that applies (log entry 19). -/
inductive IllegalWord where
  /-- OP is in 0x14..0x3F. -/
  | reservedOpcode
  /-- Bits 7:6 or 15:12 are nonzero. -/
  | reservedBits
  /-- A field that the opcode's format does not use is nonzero. -/
  | unusedField
  deriving DecidableEq, Repr

/-- One row of the decoder: the word encodes `i`, of format `F`, exactly when `(v & mask_F) = op` (R91, R96). -/
def decodeRow (v : Word32) (F : Format) (i : Instr) : Except IllegalWord Instr :=
  if v &&& F.mask = (opField v).setWidth 32 then .ok i
  else if v &&& reservedMask = 0 then .error .unusedField
  else .error .reservedBits

/-- `Decode(v)` (R96): total on 32-bit words. -/
def decode (v : Word32) : Except IllegalWord Instr :=
  match (opField v).toNat with
  | 0x00 => decodeRow v .f0 .nop
  | 0x01 => decodeRow v .f0 .ldst
  | 0x02 => decodeRow v .f0 .stst
  | 0x03 => decodeRow v .f0 .expand
  | 0x04 => decodeRow v .f0 .encb
  | 0x05 => decodeRow v .f0 .decb
  | 0x06 => decodeRow v .fr (.rnde (rndField v).toNat)
  | 0x07 => decodeRow v .fr (.rndd (rndField v).toNat)
  | 0x08 => decodeRow v .f0 .sub
  | 0x09 => decodeRow v .f0 .isub
  | 0x0A => decodeRow v .f0 .shr
  | 0x0B => decodeRow v .f0 .ishr
  | 0x0C => decodeRow v .f0 .mix
  | 0x0D => decodeRow v .f0 .imix
  | 0x0E => decodeRow v .fr (.ark (rndField v).toNat)
  | 0x0F => decodeRow v .fr (.ldrk (rndField v).toNat)
  | 0x10 => decodeRow v .fab (.gfmul (aField v) (bField v))
  | 0x11 => decodeRow v .fa (.gfdbl (aField v))
  | 0x12 => decodeRow v .fa (.sbox (aField v))
  | 0x13 => decodeRow v .fa (.isbox (aField v))
  | _ => .error .reservedOpcode

/-! ### The encoder -/

/-- The assembled word `b << 24 | a << 16 | rnd << 8 | op` (R99). -/
def assembleFields (op : BitVec 6) (rnd : BitVec 4) (a b : Byte) : Word32 :=
  b.setWidth 32 <<< 24 ||| a.setWidth 32 <<< 16 ||| rnd.setWidth 32 <<< 8 ||| op.setWidth 32

/-- The word of a command, with absent operands 0 (R99). -/
def encode (i : Instr) : Word32 :=
  match i with
  | .nop => assembleFields i.opcode 0 0 0
  | .ldst => assembleFields i.opcode 0 0 0
  | .stst => assembleFields i.opcode 0 0 0
  | .expand => assembleFields i.opcode 0 0 0
  | .encb => assembleFields i.opcode 0 0 0
  | .decb => assembleFields i.opcode 0 0 0
  | .rnde rnd => assembleFields i.opcode (BitVec.ofNat 4 rnd) 0 0
  | .rndd rnd => assembleFields i.opcode (BitVec.ofNat 4 rnd) 0 0
  | .sub => assembleFields i.opcode 0 0 0
  | .isub => assembleFields i.opcode 0 0 0
  | .shr => assembleFields i.opcode 0 0 0
  | .ishr => assembleFields i.opcode 0 0 0
  | .mix => assembleFields i.opcode 0 0 0
  | .imix => assembleFields i.opcode 0 0 0
  | .ark rnd => assembleFields i.opcode (BitVec.ofNat 4 rnd) 0 0
  | .ldrk rnd => assembleFields i.opcode (BitVec.ofNat 4 rnd) 0 0
  | .gfmul a b => assembleFields i.opcode 0 a b
  | .gfdbl a => assembleFields i.opcode 0 a 0
  | .sbox a => assembleFields i.opcode 0 a 0
  | .isbox a => assembleFields i.opcode 0 a 0

/-! ### The assembler -/

/-- The command a pseudo-instruction expands to (R100). -/
def Pseudo.expand : Pseudo → Instr
  | .xtime a => .gfdbl a
  | .gfmul3 a => .gfmul a 3
  | .gfmul9 a => .gfmul a 9
  | .gfmul11 a => .gfmul a 11
  | .gfmul13 a => .gfmul a 13
  | .gfmul14 a => .gfmul a 14
  | .initrk => .ark 0

/-- A round operand: an integer 0..15, an assembly error otherwise (R99). -/
def asmRound (n : Nat) : Option Nat := if n ≤ 15 then some n else none

/-- A byte operand: an integer 0..255, an assembly error otherwise, never truncated (R99). -/
def asmByte (n : Nat) : Option Byte := if n ≤ 255 then some (BitVec.ofNat 8 n) else none

/-- The command an assembler line stands for; `none` is an assembly error (R99, R100). The mnemonic is compared in
upper case, since mnemonics are case-insensitive; a line starts from text already split into its mnemonic and its
operands' numbers (log entry 18). -/
def assemble (l : AsmLine) : Option Instr :=
  match l.mnemonic.toUpper, l.operands with
  | "NOP", [] => some .nop
  | "LDST", [] => some .ldst
  | "STST", [] => some .stst
  | "EXPAND", [] => some .expand
  | "ENCB", [] => some .encb
  | "DECB", [] => some .decb
  | "RNDE", [r] => (asmRound r).map .rnde
  | "RNDD", [r] => (asmRound r).map .rndd
  | "SUB", [] => some .sub
  | "ISUB", [] => some .isub
  | "SHR", [] => some .shr
  | "ISHR", [] => some .ishr
  | "MIX", [] => some .mix
  | "IMIX", [] => some .imix
  | "ARK", [r] => (asmRound r).map .ark
  | "LDRK", [r] => (asmRound r).map .ldrk
  | "GFMUL", [a, b] => (asmByte a).bind fun x => (asmByte b).map (Instr.gfmul x)
  | "GFDBL", [a] => (asmByte a).map .gfdbl
  | "SBOX", [a] => (asmByte a).map .sbox
  | "ISBOX", [a] => (asmByte a).map .isbox
  | "XTIME", [a] => (asmByte a).map fun x => (Pseudo.xtime x).expand
  | "GFMUL3", [a] => (asmByte a).map fun x => (Pseudo.gfmul3 x).expand
  | "GFMUL9", [a] => (asmByte a).map fun x => (Pseudo.gfmul9 x).expand
  | "GFMUL11", [a] => (asmByte a).map fun x => (Pseudo.gfmul11 x).expand
  | "GFMUL13", [a] => (asmByte a).map fun x => (Pseudo.gfmul13 x).expand
  | "GFMUL14", [a] => (asmByte a).map fun x => (Pseudo.gfmul14 x).expand
  | "INITRK", [] => some Pseudo.initrk.expand
  | _, _ => none

/-! ### The host's view of the decoder -/

/-- The command of an opcode-table word: a command is one 32-bit word, so every bit above `nbits` is 0. -/
def decodeTableWord (nbits w : Nat) : Option Instr :=
  (decode (BitVec.ofNat 32 (w % 2 ^ nbits))).toOption

end Sys2Proof
end

