-- ==== Sys2Proof/Machine/State.lean ====
section
/-! DEFINITION. The state of the machine: everything 10_state.md R20 names, and the model's own fields for the world
around the block (the order of events, the reset input, the value the host read last, the count of draws).
Reset values: 10_state.md R43. -/

namespace Sys2Proof.Machine

/-- The error codes STATUS.ERRCODE can show (60_exceptions.md R221). Codes 6..15 are never produced. -/
inductive ErrorCode where
  /-- code 0: no error recorded -/
  | noError
  /-- code 1: EXPAND under a key size the block does not accept -/
  | invalidKeySize
  /-- code 2: a command that reads round keys while KEY_VALID = 0 -/
  | keyNotReady
  /-- code 3: an illegal command word -/
  | illegalCommand
  /-- code 4: a write to CMD, CFG, KEYk or DINk while BUSY = 1 -/
  | busy
  /-- code 5: a round operand out of range -/
  | roundRange
  deriving DecidableEq, Repr

/-- A register of the window (10_state.md, register table). -/
inductive Register where
  | cmd
  | status
  | cfg
  | id
  | gfres
  /-- the offsets 0x14, 0x18 and 0x1C -/
  | reserved
  | key (k : Fin 8)
  | din (j : Fin 4)
  | dout (j : Fin 4)
  /-- STATEc, the view of column `c` of `S` -/
  | state (c : Fin 4)
  /-- RKc, the view of column `c` of `RK` -/
  | rk (c : Fin 4)
  deriving DecidableEq, Repr

/-- One event of the block's total order of events (20_memory.md R81). `off` is an offset from `BASE` and `width` the
access's width in bytes. -/
inductive Event where
  /-- a host read (R72) -/
  | read (off width : Nat)
  /-- a host write of `v` (R73) -/
  | write (off width : Nat) (v : Word32)
  /-- a slot in which the engine may move: it completes the pending command if there is one (30_encoding.md R98) -/
  | engine
  /-- the reset input is asserted (70_reset_and_hazards.md R250) -/
  | resetAssert
  /-- the reset input is released -/
  | resetRelease
  deriving DecidableEq, Repr

/-- Why the machine stops at an event. No command and no error of the block stops it. -/
inductive Fault where
  /-- Raised when the host is stuck at an access that is not 4 bytes wide or whose offset is not a multiple of 4, which
  the spec gives no step (20_memory.md R74), and no other agent has a step left: BUSY = 0 and no event of the engine or
  of the reset input is to come. Safe. -/
  | stuckAccess
  /-- Raised by an engine slot in a state with BUSY = 1 and an empty latch, which no run from reset reaches
  (10_state.md R38). Safe. -/
  | emptyLatch
  deriving DecidableEq, Repr

/-- Why the model declines an event or a command. -/
inductive Refusal where
  /-- Raised by an arm of `exec` for a command that has no meaning yet (none has this now). Safe. -/
  | notModelled (mnemonic : String)
  /-- Raised when the host is at an access outside offsets 0x00..0x7F, which does not reach the block and whose effect
  is the platform's (93_implementation_defined.md I3), and no other agent has a step left. Safe. -/
  | outsideWindow
  /-- Raised by a host access while the reset input is asserted, which R250 does not admit
  (93_implementation_defined.md I4). Safe. -/
  | accessDuringReset
  deriving DecidableEq, Repr

/-- The state. The first group is the block's (10_state.md R20), the second the model's own. -/
structure State where
  /-- STATUS.BUSY (R23) -/
  busy : Bool
  /-- STATUS.DONE (R23) -/
  done : Bool
  /-- STATUS.ERR (R23) -/
  err : Bool
  /-- STATUS.ERRCODE (R23) -/
  errcode : ErrorCode
  /-- KEY_VALID, mirrored in STATUS (R37) -/
  keyValid : Bool
  /-- NR, mirrored in STATUS (R37) -/
  nr : BitVec 4
  /-- CFG.KS (R25) -/
  ks : BitVec 2
  /-- CFG.IE (R25) -/
  ie : Bool
  /-- GFRES[7:0]; bits 31:8 read 0 (R28) -/
  gfres : Byte
  /-- KEY0..KEY7 (R29) -/
  key : Vector Word32 8
  /-- DIN0..DIN3 (R30) -/
  din : Vector Word32 4
  /-- DOUT0..DOUT3 (R31) -/
  dout : Vector Word32 4
  /-- the state matrix `S` (R35), seen through STATE0..STATE3 -/
  S : Matrix
  /-- the round-key matrix `RK` (R44), seen through RK0..RK3 -/
  RK : Matrix
  /-- the expanded-key store `W[0..59]` (R36) -/
  W : Vector Quad 60
  /-- PEND, the pending-command latch (R38) -/
  pend : Option Instr
  /-- the level of the reset input, true while asserted (70_reset_and_hazards.md R250; log entry 9) -/
  resetLine : Bool
  /-- the events still to come, first to happen first (20_memory.md R81; log entry 2) -/
  agenda : List Event
  /-- the value the last host read returned, none before the first read (log entry 11) -/
  readData : Option Word32
  /-- the number of draws made so far (log entry 4) -/
  draws : Nat
  deriving DecidableEq, Repr

/-- The machine right after reset (10_state.md R43). `W` is unspecified there; the zero words are log entry 5, and the
values of the model's own fields log entry 15. -/
def State.reset : State where
  busy := false
  done := false
  err := false
  errcode := .noError
  keyValid := false
  nr := 0
  ks := 0b00
  ie := false
  gfres := 0x00
  key := Vector.replicate 8 0x00000000
  din := Vector.replicate 4 0x00000000
  dout := Vector.replicate 4 0x00000000
  S := zeroMatrix
  RK := zeroMatrix
  W := Vector.replicate 60 zeroQuad
  pend := none
  resetLine := false
  agenda := []
  readData := none
  draws := 0

end Sys2Proof.Machine
end

