-- ==== Sys2Proof/Machine/Operands.lean ====
section
/-! DEFINITION. The operand forms: bytes packed into registers (20_memory.md R75, R76), the raw key's words (R131), the
expanded-key store's words (R36), blocks of register groups (R30, R31) and the conversions between a block and a 4x4
state (42_state_manager.md R150, R151, R155). -/

namespace Sys2Proof.Machine

/-- `Pack(b0,b1,b2,b3) = b0 ++ b1 ++ b2 ++ b3` (R10, R76). -/
def pack (t : Quad) : Word32 := t[0] ++ t[1] ++ t[2] ++ t[3]

/-- `Unpack(v) = (v[31:24], v[23:16], v[15:8], v[7:0])` (R10, R76). -/
def unpack (v : Word32) : Quad :=
  #v[v.extractLsb' 24 8, v.extractLsb' 16 8, v.extractLsb' 8 8, v.extractLsb' 0 8]

/-- The block in a group of four registers: byte `4j + m` is `Unpack(R[j])[m]` (R30, R76). -/
def blockOfRegs (g : Vector Word32 4) : Block :=
  Vector.ofFn fun i => (unpack (g[i.val / 4]'(by omega)))[i.val % 4]'(by omega)

/-- The group of four registers that holds a block: register `j` is `Pack(B[4j..4j+3])` (R76). -/
def regsOfBlock (B : Block) : Vector Word32 4 :=
  Vector.ofFn fun j => pack #v[B[4 * j.val], B[4 * j.val + 1], B[4 * j.val + 2], B[4 * j.val + 3]]

/-- `ToState(B)[r][c] = B[4·c + r]` (R150). -/
def toState (B : Block) : Matrix :=
  Matrix.ofFn fun r c => B[4 * c.val + r.val]

/-- `ToBytes(S)[i] = S[i mod 4][i div 4]` (R151). -/
def toBytes (M : Matrix) : Block :=
  Vector.ofFn fun i => (M[i.val % 4]'(by omega))[i.val / 4]'(by omega)

/-- `Row(S, r)` (R155). -/
def row (M : Matrix) (r : Fin 4) : Quad := M[r]

/-- `Col(S, c)` (R155). -/
def col (M : Matrix) (c : Fin 4) : Quad := #v[M[0][c], M[1][c], M[2][c], M[3][c]]

/-- Word `i` of the raw key: `(K[4i], K[4i+1], K[4i+2], K[4i+3]) = Unpack(R[KEYi])` (R29, R131). No command forms an
index above 7 (log entry 14). -/
def rawKeyWord (key : Vector Word32 8) (i : Nat) : Quad := unpack (key[i]?.getD 0)

/-- `W[i]` (R36). No accepted command forms an index above 59 (R115, R136), where the word is a free value (log entry
14). -/
def expandedWord (W : Vector Quad 60) (i : Nat) : Quad := W[i]?.getD (unpack (Config.beyondStore i))

/-- `W[i] <- t` (R36). -/
def setExpandedWord (W : Vector Quad 60) (i : Nat) (t : Quad) : Vector Quad 60 := W.setIfInBounds i t

end Sys2Proof.Machine
end

