-- ==== Sys2Proof/Machine/Flags.lean ====
section
/-! DEFINITION. The flags: the codes of STATUS.ERRCODE, the STATUS and CFG words as the host reads them, and the
interrupt output (10_state.md R23, R25, R39; 60_exceptions.md R221, R226). -/

namespace Sys2Proof.Machine

/-- The number of an error code (R221). -/
def ErrorCode.code : ErrorCode → BitVec 4
  | .noError => 0
  | .invalidKeySize => 1
  | .keyNotReady => 2
  | .illegalCommand => 3
  | .busy => 4
  | .roundRange => 5

/-- STATUS as it reads: bits 31:12 zero, then NR, ERRCODE, KEY_VALID, ERR, DONE and BUSY (R23). -/
def statusWord (s : State) : Word32 :=
  0#20 ++ s.nr ++ s.errcode.code ++ BitVec.ofBool s.keyValid ++ BitVec.ofBool s.err ++ BitVec.ofBool s.done
    ++ BitVec.ofBool s.busy

/-- CFG as it reads: bits 31:3 zero, then IE and KS (R25). -/
def cfgWord (s : State) : Word32 := 0#29 ++ BitVec.ofBool s.ie ++ s.ks

/-- The level interrupt output, not stored: `irq = CFG.IE & (STATUS.DONE | STATUS.ERR)` (R39, R226). -/
def irq (s : State) : Bool := s.ie && (s.done || s.err)

end Sys2Proof.Machine
end

