-- ==== Sys2Proof/Machine/Ops.lean ====
section
/-! DEFINITION. The shared operations: the named updates of the state, recording an error and acknowledging it
(60_exceptions.md R222, R228; 10_state.md R24), the acceptance and the completion of a command (30_encoding.md R97, R98;
60_exceptions.md R224), reads and writes of the register window (20_memory.md R72, R73) and reset (R250). -/

namespace Sys2Proof.Machine

/-! ### Named updates: what a command's pseudocode assigns -/

/-- `GFRES[7:0] <- v` (R28). -/
def setGfres (v : Byte) (s : State) : State := { s with gfres := v }

/-- `S <- M` (R35). -/
def setS (M : Matrix) (s : State) : State := { s with S := M }

/-- `RK <- M` (R44). -/
def setRK (M : Matrix) (s : State) : State := { s with RK := M }

/-- `R[DOUTj] <- g[j]` for `j` in 0..3 (R31). -/
def setDout (g : Vector Word32 4) (s : State) : State := { s with dout := g }

/-- `W <- W'; KEY_VALID <- 1; NR <- n` (R37, R132). -/
def setSchedule (W' : Vector Quad 60) (n : BitVec 4) (s : State) : State :=
  { s with W := W', keyValid := true, nr := n }

/-! ### Recording an error, and acknowledging one -/

/-- `raise Error(code)` (R222): the block's one error mechanism. ERR becomes 1, and ERRCODE takes the code only if ERR
was 0, so the first error since the last clear is kept. -/
def raiseError (c : ErrorCode) (s : State) : State :=
  { s with err := true, errcode := if s.err then s.errcode else c }

/-- A STATUS write, the host's acknowledgement (R24, R228): bit 1 clears DONE, bit 2 clears ERR and ERRCODE. -/
def writeStatus (v : Word32) (s : State) : State :=
  { s with
    done := if v.getLsbD 1 then false else s.done
    err := if v.getLsbD 2 then false else s.err
    errcode := if v.getLsbD 2 then .noError else s.errcode }

/-! ### Acceptance and completion of a command -/

/-- The commands that read round keys (R37, R224). -/
def needsKey : Instr → Bool
  | .nop => false
  | .ldst => false
  | .stst => false
  | .expand => false
  | .encb => true
  | .decb => true
  | .rnde _ => true
  | .rndd _ => true
  | .sub => false
  | .isub => false
  | .shr => false
  | .ishr => false
  | .mix => false
  | .imix => false
  | .ark _ => true
  | .ldrk _ => true
  | .gfmul _ _ => false
  | .gfdbl _ => false
  | .sbox _ => false
  | .isbox _ => false

/-- Whether a round operand is out of range for a valid key of `nr` rounds (R224, the ROUND_RANGE lines). -/
def roundOutOfRange (nr : Nat) : Instr → Bool
  | .nop => false
  | .ldst => false
  | .stst => false
  | .expand => false
  | .encb => false
  | .decb => false
  | .rnde rnd => rnd = 0 ∨ rnd > nr
  | .rndd rnd => rnd ≥ nr
  | .sub => false
  | .isub => false
  | .shr => false
  | .ishr => false
  | .mix => false
  | .imix => false
  | .ark rnd => rnd > nr
  | .ldrk rnd => rnd > nr
  | .gfmul _ _ => false
  | .gfdbl _ => false
  | .sbox _ => false
  | .isbox _ => false

/-- CFG.KS values under which EXPAND fails: 0b11, and 0b01 when `ALLOW_AES192 = false` (R134). -/
def keySizeRefused (ks : BitVec 2) : Bool := ks == 0b11 || (ks == 0b01 && !Config.allowAes192)

/-- `CheckCommand(d)` of a decoded command (R224): the first code that applies, `noError` when it passes. The
ILLEGAL_COMMAND line, for a word that decodes to no command, stands where a word is decoded (Machine/Bus.lean). -/
def checkCommand (i : Instr) (s : State) : ErrorCode :=
  if i = .expand ∧ keySizeRefused s.ks then .invalidKeySize
  else if needsKey i ∧ s.keyValid = false then .keyNotReady
  else if roundOutOfRange s.nr.toNat i then .roundRange
  else .noError

/-- A command that fails at acceptance: `raise Error(code); DONE <- 1` (R97, R222, R223). -/
def failCommand (c : ErrorCode) (s : State) : State := { raiseError c s with done := true }

/-- A command that passes: `DONE <- 0; BUSY <- 1; PEND <- d` (R97). -/
def accept (i : Instr) (s : State) : State := { s with done := false, busy := true, pend := some i }

/-- `Issue` of a decoded command (R97). -/
def issue (i : Instr) (s : State) : State :=
  if checkCommand i s = .noError then accept i s else failCommand (checkCommand i s) s

/-- The common end of a completion: `BUSY <- 0; DONE <- 1; PEND <- empty` (R98). -/
def complete (s : State) : State := { s with busy := false, done := true, pend := none }

/-- The step of one command, whose pseudocode is `effect`: its acceptance while BUSY = 0 (R97), its completion while
BUSY = 1 (R98; log entry 1). -/
def runCommand (i : Instr) (effect : State → State) (s : State) : Host.Outcome State Fault Refusal :=
  if s.busy then .next (complete (effect s)) else .next (issue i s)

/-! ### The register window -/

/-- The register at a window offset (10_state.md, register table); none at an offset that is no multiple of 4 or lies
outside the window. -/
def registerAt (off : Nat) : Option Register :=
  match off with
  | 0x00 => some .cmd
  | 0x04 => some .status
  | 0x08 => some .cfg
  | 0x0C => some .id
  | 0x10 => some .gfres
  | 0x14 => some .reserved
  | 0x18 => some .reserved
  | 0x1C => some .reserved
  | 0x20 => some (.key 0)
  | 0x24 => some (.key 1)
  | 0x28 => some (.key 2)
  | 0x2C => some (.key 3)
  | 0x30 => some (.key 4)
  | 0x34 => some (.key 5)
  | 0x38 => some (.key 6)
  | 0x3C => some (.key 7)
  | 0x40 => some (.din 0)
  | 0x44 => some (.din 1)
  | 0x48 => some (.din 2)
  | 0x4C => some (.din 3)
  | 0x50 => some (.dout 0)
  | 0x54 => some (.dout 1)
  | 0x58 => some (.dout 2)
  | 0x5C => some (.dout 3)
  | 0x60 => some (.state 0)
  | 0x64 => some (.state 1)
  | 0x68 => some (.state 2)
  | 0x6C => some (.state 3)
  | 0x70 => some (.rk 0)
  | 0x74 => some (.rk 1)
  | 0x78 => some (.rk 2)
  | 0x7C => some (.rk 3)
  | _ => none

/-- The window offset of a bus address: `address - BASE`, none where the access does not reach the block (R70, R74). -/
def windowOffset (addr : Nat) : Option Nat :=
  if Config.base ≤ addr ∧ addr < Config.base + Config.windowSize then some (addr - Config.base) else none

/-- The registers whose read while BUSY = 1 is a `draw()`: GFRES, DOUTj, STATEc and RKc (R72, R257). -/
def isResult : Register → Bool
  | .cmd => false
  | .status => false
  | .cfg => false
  | .id => false
  | .gfres => true
  | .reserved => false
  | .key _ => false
  | .din _ => false
  | .dout _ => true
  | .state _ => true
  | .rk _ => true

/-- The stored value of a register, as `BusRead` gives it while BUSY = 0 (R72). -/
def storedValue (r : Register) (s : State) : Word32 :=
  match r with
  | .cmd => 0x00000000
  | .status => statusWord s
  | .cfg => cfgWord s
  | .id => Config.idWord
  | .gfres => s.gfres.setWidth 32
  | .reserved => 0x00000000
  | .key k => s.key[k]
  | .din j => s.din[j]
  | .dout j => s.dout[j]
  | .state c => pack (col s.S c)
  | .rk c => pack (col s.RK c)

/-- Whether the next read of `r` is a `draw()` (R72, R257). -/
def readDraws (r : Register) (s : State) : Bool := isResult r && s.busy

/-- `BusRead` of a register (R72). -/
def readRegister (r : Register) (s : State) : Word32 :=
  if readDraws r s then Config.draw s.draws else storedValue r s

/-- The host's read: it takes the value and the block is unchanged; a `draw()` is fresh on each read (R72, R80). -/
def deliverRead (r : Register) (s : State) : State :=
  { s with readData := some (readRegister r s), draws := if readDraws r s then s.draws + 1 else s.draws }

/-- A CFG write accepted while BUSY = 0 (R26): a change of KS clears KEY_VALID and NR. -/
def writeCfg (v : Word32) (s : State) : State :=
  { s with
    keyValid := if v.extractLsb' 0 2 = s.ks then s.keyValid else false
    nr := if v.extractLsb' 0 2 = s.ks then s.nr else 0
    ks := v.extractLsb' 0 2
    ie := v.getLsbD 2 }

/-- A KEYk write accepted while BUSY = 0: it stores the value and clears KEY_VALID and NR (R29). -/
def writeKey (k : Fin 8) (v : Word32) (s : State) : State :=
  { s with key := s.key.set k v, keyValid := false, nr := 0 }

/-- A DINj write accepted while BUSY = 0 (R30). -/
def writeDin (j : Fin 4) (v : Word32) (s : State) : State := { s with din := s.din.set j v }

/-- A write that BUSY = 1 drops, recording BUSY (R73, R255). -/
def unlessBusy (write : State → State) (s : State) : State :=
  if s.busy then raiseError .busy s else write s

/-! ### Reset -/

/-- The unspecified contents of `W` after a reset event: sixty draws (R250, 93_implementation_defined.md I10; log
entry 6). -/
def drawnSchedule (n : Nat) : Vector Quad 60 := Vector.ofFn fun i => unpack (Config.draw (n + i.val))

/-- The reset input is asserted: every piece of the block's state takes its reset value, `W` an unspecified one, and
the pending command is discarded (R250). What is outside the block stays: the events to come and the value the host
read last. -/
def assertReset (s : State) : State :=
  { State.reset with
    W := drawnSchedule s.draws
    resetLine := true
    agenda := s.agenda
    readData := s.readData
    draws := s.draws + 60 }

/-- The reset input is released (log entry 9). -/
def releaseReset (s : State) : State := { s with resetLine := false }

end Sys2Proof.Machine
end

