-- ==== Sys2Proof/Machine/Tables.lean ====
section
/-! DEFINITION. The constant tables SBOX, INVSBOX and RCON (10_state.md R40, R41, R42). A row of a table is written as
the spec prints it: sixteen bytes, column 0 first. -/

namespace Sys2Proof.Machine

/-- Row `hi` of SBOX (R40). -/
def sboxRow (hi : BitVec 4) : BitVec 128 :=
  match hi.toNat with
  | 0x0 => 0x637C777BF26B6FC53001672BFED7AB76
  | 0x1 => 0xCA82C97DFA5947F0ADD4A2AF9CA472C0
  | 0x2 => 0xB7FD9326363FF7CC34A5E5F171D83115
  | 0x3 => 0x04C723C31896059A071280E2EB27B275
  | 0x4 => 0x09832C1A1B6E5AA0523BD6B329E32F84
  | 0x5 => 0x53D100ED20FCB15B6ACBBE394A4C58CF
  | 0x6 => 0xD0EFAAFB434D338545F9027F503C9FA8
  | 0x7 => 0x51A3408F929D38F5BCB6DA2110FFF3D2
  | 0x8 => 0xCD0C13EC5F974417C4A77E3D645D1973
  | 0x9 => 0x60814FDC222A908846EEB814DE5E0BDB
  | 0xA => 0xE0323A0A4906245CC2D3AC629195E479
  | 0xB => 0xE7C8376D8DD54EA96C56F4EA657AAE08
  | 0xC => 0xBA78252E1CA6B4C6E8DD741F4BBD8B8A
  | 0xD => 0x703EB5664803F60E613557B986C11D9E
  | 0xE => 0xE1F8981169D98E949B1E87E9CE5528DF
  | _ => 0x8CA1890DBFE6426841992D0FB054BB16

/-- Row `hi` of INVSBOX (R41). -/
def invSboxRow (hi : BitVec 4) : BitVec 128 :=
  match hi.toNat with
  | 0x0 => 0x52096AD53036A538BF40A39E81F3D7FB
  | 0x1 => 0x7CE339829B2FFF87348E4344C4DEE9CB
  | 0x2 => 0x547B9432A6C2233DEE4C950B42FAC34E
  | 0x3 => 0x082EA16628D924B2765BA2496D8BD125
  | 0x4 => 0x72F8F66486689816D4A45CCC5D65B692
  | 0x5 => 0x6C704850FDEDB9DA5E154657A78D9D84
  | 0x6 => 0x90D8AB008CBCD30AF7E45805B8B34506
  | 0x7 => 0xD02C1E8FCA3F0F02C1AFBD0301138A6B
  | 0x8 => 0x3A9111414F67DCEA97F2CFCEF0B4E673
  | 0x9 => 0x96AC7422E7AD3585E2F937E81C75DF6E
  | 0xA => 0x47F11A711D29C5896FB7620EAA18BE1B
  | 0xB => 0xFC563E4BC6D279209ADBC0FE78CD5AF4
  | 0xC => 0x1FDDA8338807C731B11210592780EC5F
  | 0xD => 0x60517FA919B54A0D2DE57A9F93C99CEF
  | 0xE => 0xA0E03B4DAE2AF5B0C8EBBB3C83539961
  | _ => 0x172B047EBA77D626E169146355210C7D

/-- The entry in column `lo` of a table row. -/
def rowEntry (rowBytes : BitVec 128) (lo : BitVec 4) : Byte := rowBytes.extractLsb' (8 * (15 - lo.toNat)) 8

/-- `SBOX[x]`: row `x[7:4]`, column `x[3:0]` (R40). -/
def sbox (x : Byte) : Byte := rowEntry (sboxRow (x.extractLsb' 4 4)) (x.extractLsb' 0 4)

/-- `INVSBOX[x]`: row `x[7:4]`, column `x[3:0]` (R41). -/
def invSbox (x : Byte) : Byte := rowEntry (invSboxRow (x.extractLsb' 4 4)) (x.extractLsb' 0 4)

/-- `RCON[0..9]` (R42). -/
def rconTable : Vector Byte 10 := #v[0x01, 0x02, 0x04, 0x08, 0x10, 0x20, 0x40, 0x80, 0x1B, 0x36]

/-- `RCON[j]`. No command forms an index above 9 (R133; log entry 14). -/
def rcon (j : Nat) : Byte := rconTable[j]?.getD 0

end Sys2Proof.Machine
end

