-- ==== Sys2Proof/Machine/GfArith.lean ====
section
/-! DEFINITION. The GF(2^8) multiplier and its commands GFMUL and GFDBL (40_gf_arith.md). -/

namespace Sys2Proof.Machine

/-- `double(b)`: shift left by one, and XOR 0x1B when the discarded bit was 1 (R110). -/
def double (b : Byte) : Byte := if b.getLsbD 7 then (b <<< 1) ^^^ 0x1B else b <<< 1

/-- Bit `i` of R111's loop: `if b[i] = 1 then acc <- acc ⊕ a`, then `a <- double(a)`. -/
def multiplyBit (b : Byte) (accA : Byte × Byte) (i : Nat) : Byte × Byte :=
  (if b.getLsbD i then accA.1 ^^^ accA.2 else accA.1, double accA.2)

/-- `multiply(a, b)`, the spec's `a · b`: the loop over the eight bits of `b`, least significant first (R111, R112). -/
def multiply (a b : Byte) : Byte := ((List.range 8).foldl (multiplyBit b) (0x00, a)).1

/-- The shortcut for 3 (R113). -/
def mul3 (b : Byte) : Byte := double b ^^^ b

/-- The shortcut for 9 (R113). -/
def mul9 (b : Byte) : Byte := double (double (double b)) ^^^ b

/-- The shortcut for 11 (R113). -/
def mul11 (b : Byte) : Byte := double (double (double b)) ^^^ double b ^^^ b

/-- The shortcut for 13 (R113). -/
def mul13 (b : Byte) : Byte := double (double (double b)) ^^^ double (double b) ^^^ b

/-- The shortcut for 14 (R113). -/
def mul14 (b : Byte) : Byte := double (double (double b)) ^^^ double (double b) ^^^ double b

/-- GFMUL (R116): `GFRES[7:0] <- multiply(a, b)`. -/
def execGfmul (a b : Byte) (s : State) : Host.Outcome State Fault Refusal :=
  runCommand (.gfmul a b) (setGfres (multiply a b)) s

/-- GFDBL (R117): `GFRES[7:0] <- double(a)`. -/
def execGfdbl (a : Byte) (s : State) : Host.Outcome State Fault Refusal :=
  runCommand (.gfdbl a) (setGfres (double a)) s

end Sys2Proof.Machine
end

