-- ==== Sys2Proof/Machine/KeySchedule.lean ====
section
/-! DEFINITION. The key schedule expander and its commands EXPAND and LDRK (41_key_schedule.md). -/

namespace Sys2Proof.Machine

/-- `(Nr, Nk)` of CFG.KS; none for the reserved value 0b11 (R130). -/
def keySize (ks : BitVec 2) : Option (Nat × Nat) :=
  match ks.toNat with
  | 0b00 => some (10, 4)
  | 0b01 => some (12, 6)
  | 0b10 => some (14, 8)
  | _ => none

/-- `t ⊕ u`, byte by byte (R135). -/
def xorQuad (t u : Quad) : Quad := Vector.ofFn fun k => t[k] ^^^ u[k]

/-- `RotWord(t)`: rotate left by one byte (R135). -/
def rotWord (t : Quad) : Quad := #v[t[1], t[2], t[3], t[0]]

/-- `SubWord(t)`: every byte through SBOX (R135). -/
def subWord (t : Quad) : Quad := #v[sbox t[0], sbox t[1], sbox t[2], sbox t[3]]

/-- `t.b[0] <- t.b[0] ⊕ x` (R132). -/
def injectConstant (x : Byte) (t : Quad) : Quad := #v[t[0] ^^^ x, t[1], t[2], t[3]]

/-- The word `t` that EXPAND makes of the previous word `prev` at index `i` (R132). -/
def scheduleCore (Nk i : Nat) (prev : Quad) : Quad :=
  if i % Nk = 0 then injectConstant (rcon (i / Nk - 1)) (subWord (rotWord prev))
  else if Nk = 8 ∧ i % Nk = 4 then subWord prev
  else prev

/-- The word EXPAND stores at index `i`: a raw key word below `Nk`, and `t ⊕ W[i-Nk]` from there on (R132). -/
def scheduleWord (key : Vector Word32 8) (Nk i : Nat) (W : Vector Quad 60) : Quad :=
  if i < Nk then rawKeyWord key i
  else xorQuad (scheduleCore Nk i (expandedWord W (i - 1))) (expandedWord W (i - Nk))

/-- The two loops of R132 as one: `W[0], W[1], ..., W[n-1]` are stored in this order. -/
def expandWords (key : Vector Word32 8) (Nk : Nat) : Nat → Vector Quad 60 → Vector Quad 60
  | 0, W => W
  | n + 1, W =>
    let W' := expandWords key Nk n W
    setExpandedWord W' n (scheduleWord key Nk n W')

/-- The expanded-key store after EXPAND with `Nr` rounds: words `0..4·(Nr+1)-1` are written, the rest left (R132). -/
def expandKey (key : Vector Word32 8) (Nr Nk : Nat) (W : Vector Quad 60) : Vector Quad 60 :=
  expandWords key Nk (4 * (Nr + 1)) W

/-- EXPAND's pseudocode (R132). It is never reached with CFG.KS = 0b11, which fails at acceptance (R134); it then
writes nothing (log entry 14). -/
def expandEffect (s : State) : State :=
  match keySize s.ks with
  | some (Nr, Nk) => setSchedule (expandKey s.key Nr Nk s.W) (BitVec.ofNat 4 Nr) s
  | none => s

/-- `RoundKey(rnd)[r][c] = W[4·rnd + c].b[r]` (R136). -/
def roundKey (W : Vector Quad 60) (rnd : Nat) : Matrix :=
  Matrix.ofFn fun r c => (expandedWord W (4 * rnd + c.val))[r]

/-- EXPAND (R132). -/
def execExpand (s : State) : Host.Outcome State Fault Refusal := runCommand .expand expandEffect s

/-- LDRK (R137): `RK <- RoundKey(rnd)`. -/
def execLdrk (rnd : Nat) (s : State) : Host.Outcome State Fault Refusal :=
  runCommand (.ldrk rnd) (fun t => setRK (roundKey t.W rnd) t) s

end Sys2Proof.Machine
end

