-- ==== Sys2Proof/Machine/StateManager.lean ====
section
/-! DEFINITION. The block state matrix manager's commands LDST and STST, and NOP (42_state_manager.md). -/

namespace Sys2Proof.Machine

/-- LDST (R152): `S <- ToState(B)` for the block `B` in DIN. -/
def execLdst (s : State) : Host.Outcome State Fault Refusal :=
  runCommand .ldst (fun t => setS (toState (blockOfRegs t.din)) t) s

/-- STST (R153): DOUT takes `ToBytes(S)`. -/
def execStst (s : State) : Host.Outcome State Fault Refusal :=
  runCommand .stst (fun t => setDout (regsOfBlock (toBytes t.S)) t) s

/-- NOP (R154): nothing beyond the common bookkeeping. -/
def execNop (s : State) : Host.Outcome State Fault Refusal := runCommand .nop id s

end Sys2Proof.Machine
end

