-- ==== Sys2Proof/Machine/RoundTransforms.lean ====
section
/-! DEFINITION. The round transforms, their inverses, and the commands that apply them, with the two S-box lookup
commands (43_round_transforms.md). -/

namespace Sys2Proof.Machine

/-- `SubBytes(S)[r][c] = SBOX[S[r][c]]` (R170). -/
def subBytes (M : Matrix) : Matrix := Matrix.ofFn fun r c => sbox M[r][c]

/-- `InvSubBytes(S)[r][c] = INVSBOX[S[r][c]]` (R171). -/
def invSubBytes (M : Matrix) : Matrix := Matrix.ofFn fun r c => invSbox M[r][c]

/-- `ShiftRows(S)[r][c] = S[r][(c + r) mod 4]` (R174); addition of `Fin 4` is modulo 4. -/
def shiftRows (M : Matrix) : Matrix := Matrix.ofFn fun r c => M[r][c + r]

/-- `InvShiftRows(S)[r][c] = S[r][(c - r) mod 4]` (R175); subtraction of `Fin 4` is modulo 4. -/
def invShiftRows (M : Matrix) : Matrix := Matrix.ofFn fun r c => M[r][c - r]

/-- The matrix `MF` (R177). -/
def mixForward : Matrix :=
  #v[#v[0x02, 0x03, 0x01, 0x01], #v[0x01, 0x02, 0x03, 0x01], #v[0x01, 0x01, 0x02, 0x03], #v[0x03, 0x01, 0x01, 0x02]]

/-- The matrix `MI` (R177). -/
def mixInverse : Matrix :=
  #v[#v[0x0E, 0x0B, 0x0D, 0x09], #v[0x09, 0x0E, 0x0B, 0x0D], #v[0x0D, 0x09, 0x0E, 0x0B], #v[0x0B, 0x0D, 0x09, 0x0E]]

/-- `s'[r] = ⊕_k M[r][k] · s[k]` for every column `s` of the state (R177). -/
def mixWith (A M : Matrix) : Matrix :=
  Matrix.ofFn fun r c =>
    multiply A[r][0] M[0][c] ^^^ multiply A[r][1] M[1][c] ^^^ multiply A[r][2] M[2][c] ^^^ multiply A[r][3] M[3][c]

/-- MixColumns (R177, R178). -/
def mixColumns (M : Matrix) : Matrix := mixWith mixForward M

/-- InvMixColumns (R177, R179). -/
def invMixColumns (M : Matrix) : Matrix := mixWith mixInverse M

/-- `AddRoundKey(S, K)[r][c] = S[r][c] ⊕ K[r][c]` (R182). -/
def addRoundKey (M K : Matrix) : Matrix := Matrix.ofFn fun r c => M[r][c] ^^^ K[r][c]

/-- SUB (R170). -/
def execSub (s : State) : Host.Outcome State Fault Refusal := runCommand .sub (fun t => setS (subBytes t.S) t) s

/-- ISUB (R171). -/
def execIsub (s : State) : Host.Outcome State Fault Refusal := runCommand .isub (fun t => setS (invSubBytes t.S) t) s

/-- SHR (R174). -/
def execShr (s : State) : Host.Outcome State Fault Refusal := runCommand .shr (fun t => setS (shiftRows t.S) t) s

/-- ISHR (R175). -/
def execIshr (s : State) : Host.Outcome State Fault Refusal := runCommand .ishr (fun t => setS (invShiftRows t.S) t) s

/-- MIX (R178). -/
def execMix (s : State) : Host.Outcome State Fault Refusal := runCommand .mix (fun t => setS (mixColumns t.S) t) s

/-- IMIX (R179). -/
def execImix (s : State) : Host.Outcome State Fault Refusal := runCommand .imix (fun t => setS (invMixColumns t.S) t) s

/-- ARK (R182): `S <- AddRoundKey(S, K); RK <- K` with `K = RoundKey(rnd)`. -/
def execArk (rnd : Nat) (s : State) : Host.Outcome State Fault Refusal :=
  runCommand (.ark rnd) (fun t => setRK (roundKey t.W rnd) (setS (addRoundKey t.S (roundKey t.W rnd)) t)) s

/-- SBOX (R172): `GFRES[7:0] <- SBOX[a]`. -/
def execSbox (a : Byte) (s : State) : Host.Outcome State Fault Refusal := runCommand (.sbox a) (setGfres (sbox a)) s

/-- ISBOX (R173): `GFRES[7:0] <- INVSBOX[a]`. -/
def execIsbox (a : Byte) (s : State) : Host.Outcome State Fault Refusal :=
  runCommand (.isbox a) (setGfres (invSbox a)) s

end Sys2Proof.Machine
end

