-- ==== Sys2Proof/Machine/BlockSequencer.lean ====
section
/-! DEFINITION. The round sequencer: one round (RNDE, RNDD) and whole blocks (ENCB, DECB) (44_block_sequencer.md). -/

namespace Sys2Proof.Machine

/-- One forward round on a state: SubBytes, ShiftRows, MixColumns except in the final round, AddRoundKey (R200). -/
def forwardRound (W : Vector Quad 60) (nr rnd : Nat) (M : Matrix) : Matrix :=
  let T := shiftRows (subBytes M)
  addRoundKey (if rnd = nr then T else mixColumns T) (roundKey W rnd)

/-- One inverse round on a state: InvShiftRows, InvSubBytes, AddRoundKey, InvMixColumns except in round 0 (R201). -/
def inverseRound (W : Vector Quad 60) (rnd : Nat) (M : Matrix) : Matrix :=
  let T := addRoundKey (invSubBytes (invShiftRows M)) (roundKey W rnd)
  if rnd = 0 then T else invMixColumns T

/-- Forward rounds `1..n` in order (R202). -/
def forwardRounds (W : Vector Quad 60) (nr : Nat) : Nat → Matrix → Matrix
  | 0, M => M
  | n + 1, M => forwardRound W nr (n + 1) (forwardRounds W nr n M)

/-- Inverse rounds `n-1` down to 0 in order (R203). -/
def inverseRounds (W : Vector Quad 60) : Nat → Matrix → Matrix
  | 0, M => M
  | n + 1, M => inverseRounds W n (inverseRound W n M)

/-- The encryption of one block as a state (R202). -/
def encryptState (W : Vector Quad 60) (nr : Nat) (M : Matrix) : Matrix :=
  forwardRounds W nr nr (addRoundKey M (roundKey W 0))

/-- The decryption of one block as a state (R203). -/
def decryptState (W : Vector Quad 60) (nr : Nat) (M : Matrix) : Matrix :=
  inverseRounds W nr (addRoundKey M (roundKey W nr))

/-- The results of a whole-block command: `S <- X; RK <- K`, and DOUT takes `ToBytes(X)` (R202, R203). -/
def storeBlock (X K : Matrix) (s : State) : State := setDout (regsOfBlock (toBytes X)) (setRK K (setS X s))

/-- RNDE (R200). -/
def execRnde (rnd : Nat) (s : State) : Host.Outcome State Fault Refusal :=
  runCommand (.rnde rnd) (fun t => setRK (roundKey t.W rnd) (setS (forwardRound t.W t.nr.toNat rnd t.S) t)) s

/-- RNDD (R201). -/
def execRndd (rnd : Nat) (s : State) : Host.Outcome State Fault Refusal :=
  runCommand (.rndd rnd) (fun t => setRK (roundKey t.W rnd) (setS (inverseRound t.W rnd t.S) t)) s

/-- ENCB (R202). -/
def execEncb (s : State) : Host.Outcome State Fault Refusal :=
  runCommand .encb
    (fun t => storeBlock (encryptState t.W t.nr.toNat (toState (blockOfRegs t.din))) (roundKey t.W t.nr.toNat) t) s

/-- DECB (R203). -/
def execDecb (s : State) : Host.Outcome State Fault Refusal :=
  runCommand .decb
    (fun t => storeBlock (decryptState t.W t.nr.toNat (toState (blockOfRegs t.din))) (roundKey t.W 0) t) s

end Sys2Proof.Machine
end

