-- ==== Sys2Proof/Machine/Dispatch.lean ====
section
/-! DEFINITION. One arm per constructor of Instr (30_encoding.md R93, the rule column). -/

namespace Sys2Proof.Machine

def exec (i : Instr) (s : State) : Host.Outcome State Fault Refusal :=
  match i with
  | .nop => Sys2Proof.Machine.execNop s
  | .ldst => Sys2Proof.Machine.execLdst s
  | .stst => Sys2Proof.Machine.execStst s
  | .expand => Sys2Proof.Machine.execExpand s
  | .encb => Sys2Proof.Machine.execEncb s
  | .decb => Sys2Proof.Machine.execDecb s
  | .rnde rnd => Sys2Proof.Machine.execRnde rnd s
  | .rndd rnd => Sys2Proof.Machine.execRndd rnd s
  | .sub => Sys2Proof.Machine.execSub s
  | .isub => Sys2Proof.Machine.execIsub s
  | .shr => Sys2Proof.Machine.execShr s
  | .ishr => Sys2Proof.Machine.execIshr s
  | .mix => Sys2Proof.Machine.execMix s
  | .imix => Sys2Proof.Machine.execImix s
  | .ark rnd => Sys2Proof.Machine.execArk rnd s
  | .ldrk rnd => Sys2Proof.Machine.execLdrk rnd s
  | .gfmul a b => Sys2Proof.Machine.execGfmul a b s
  | .gfdbl a => Sys2Proof.Machine.execGfdbl a s
  | .sbox a => Sys2Proof.Machine.execSbox a s
  | .isbox a => Sys2Proof.Machine.execIsbox a s

end Sys2Proof.Machine
end

