-- ==== Sys2Proof/Machine/Bus.lean ====
section
/-! DEFINITION. The events of the block's total order (20_memory.md R81): host reads and writes of the window (R72 to
R74), the issue of a command word (30_encoding.md R97), the engine's completion step (R98) and the reset input (R250),
and which of them happens next. -/

namespace Sys2Proof.Machine

/-- `Issue(v)` while BUSY = 0 (R97): an illegal word fails with ILLEGAL_COMMAND, any other is issued. -/
def issueWord (v : Word32) (s : State) : Host.Outcome State Fault Refusal :=
  match decode v with
  | .ok i => exec i s
  | .error _ => .next (failCommand .illegalCommand s)

/-- `BusWrite` to a register (R73). A CMD write while BUSY = 1 is dropped and never decoded (R224). -/
def writeRegister (r : Register) (v : Word32) (s : State) : Host.Outcome State Fault Refusal :=
  match r with
  | .cmd => if s.busy then .next (raiseError .busy s) else issueWord v s
  | .status => .next (writeStatus v s)
  | .cfg => .next (unlessBusy (writeCfg v) s)
  | .id => .next s
  | .gfres => .next s
  | .reserved => .next s
  | .key k => .next (unlessBusy (writeKey k v) s)
  | .din j => .next (unlessBusy (writeDin j v) s)
  | .dout _ => .next s
  | .state _ => .next s
  | .rk _ => .next s

/-- The register a host access reaches, or how the machine stops when nothing but the access is left: it lies outside
the window (R74, I3), or it is of another width or alignment (R74, I2). -/
def accessTarget (off width : Nat) : Except (Host.Outcome State Fault Refusal) Register :=
  if off ≥ Config.windowSize then .error (.refused .outsideWindow)
  else if width ≠ 4 then .error (.fault .stuckAccess)
  else match registerAt off with
    | some r => .ok r
    | none => .error (.fault .stuckAccess)

/-- A host access goes to its register; while reset is asserted it is not admitted (R250, I4). -/
def whenAdmitted (off width : Nat) (s : State) (act : Register → Host.Outcome State Fault Refusal) :
    Host.Outcome State Fault Refusal :=
  match accessTarget off width with
  | .error stop => stop
  | .ok r => if s.resetLine then .refused .accessDuringReset else act r

/-- `BusRead(off)` (R72). -/
def hostRead (off width : Nat) (s : State) : Host.Outcome State Fault Refusal :=
  whenAdmitted off width s fun r => .next (deliverRead r s)

/-- `BusWrite(off, v)` (R73). -/
def hostWrite (off width : Nat) (v : Word32) (s : State) : Host.Outcome State Fault Refusal :=
  whenAdmitted off width s fun r => writeRegister r v s

/-- The engine's step: with BUSY = 1 it completes PEND (R98), with BUSY = 0 it takes no step (R252). -/
def engineStep (s : State) : Host.Outcome State Fault Refusal :=
  if s.busy then
    match s.pend with
    | some i => exec i s
    | none => .fault .emptyLatch
  else .next s

/-- One event. -/
def applyEvent (e : Event) (s : State) : Host.Outcome State Fault Refusal :=
  match e with
  | .read off width => hostRead off width s
  | .write off width v => hostWrite off width v s
  | .engine => engineStep s
  | .resetAssert => .next (assertReset s)
  | .resetRelease => .next (releaseReset s)

/-- The host's own events. -/
def Event.isHost : Event → Bool
  | .read _ _ => true
  | .write _ _ _ => true
  | .engine => false
  | .resetAssert => false
  | .resetRelease => false

/-- Whether the host can go no further than this event: an access that the spec gives no step (R74; log entry 7), or
that does not reach the block (R74; that it holds the host is log entry 8). -/
def Event.holdsHost : Event → Bool
  | .read off width => !(accessTarget off width).isOk
  | .write off width _ => !(accessTarget off width).isOk
  | .engine => false
  | .resetAssert => false
  | .resetRelease => false

/-- The next event to happen, if one can, and the agenda it leaves. It is the first, unless the host is held at that:
then the host takes no step any more, and the next event is the first of another agent, the engine or the reset input
(R74, R98, R252; log entries 7 and 8). -/
def nextEvent : List Event → Option Event × List Event
  | [] => (none, [])
  | e :: rest =>
    if e.holdsHost then (rest.find? fun f => !f.isHost, e :: rest.eraseP fun f => !f.isHost) else (some e, rest)

/-- The machine when no event can happen and BUSY = 0: an idle block keeps all its state (R245), and a host that is
held at an access stops the machine. -/
def atRest (s : State) : Host.Outcome State Fault Refusal :=
  match s.agenda with
  | [] => .next s
  | e :: _ => applyEvent e s

/-- The next step of the machine: the next event that can happen. When none can, the engine still moves, so a pending
command always completes (R252, weak fairness). -/
def takeEvent (s : State) : Host.Outcome State Fault Refusal :=
  match nextEvent s.agenda with
  | (some e, left) => applyEvent e { s with agenda := left }
  | (none, _) => if s.busy then engineStep s else atRest s

/-- The state in which the very next event is the host's write of command word `w` to CMD, to an idle block out of
reset (log entry 3). -/
def placeCommand (s : State) (nbits w : Nat) : State :=
  { s with
    busy := false
    pend := none
    resetLine := false
    agenda := .write 0x00 4 (BitVec.ofNat 32 (w % 2 ^ nbits)) :: s.agenda }

/-- The events of a statement of the host-program notation (R101). -/
def HostStmt.events : HostStmt → List Event
  | .wr off v => [.write off 4 v]
  | .rd off => [.read off 4]
  | .cmd i => [.write 0x00 4 (encode i)]
  | .wait busyPolls => List.replicate busyPolls (.read 0x04 4) ++ [.engine, .read 0x04 4]

/-- The events of a host program (R101). -/
def hostProgram (p : List HostStmt) : List Event := p.flatMap HostStmt.events

end Sys2Proof.Machine
end

