-- ==== Sys2Proof/Machine/Step.lean ====
section
/-! DEFINITION. One step of the machine, and how a command word is put where the next step takes it from. -/

namespace Sys2Proof.Machine

/-- One step: the next event of the block's total order (20_memory.md R81). -/
def step (s : State) : Host.Outcome State Fault Refusal := takeEvent s

/-- The command word `w` as the next thing the host writes to CMD (log entry 3). -/
def State.withFetchWord (s : State) (nbits w : Nat) : State := placeCommand s nbits w

end Sys2Proof.Machine
end

