-- ==== Sys2Proof/Safety.lean ====
section
/-! DEFINITION. The terms claims are stated in: running a command from its issue to its completion, the invariant of
the machine, and which events the spec admits. -/

namespace Sys2Proof.Machine

/-- `CMD i ; WAIT` (30_encoding.md R101): the issue of a command, and its completion if it was accepted. -/
def runToCompletion (i : Instr) (s : State) : Host.Outcome State Fault Refusal :=
  match exec i s with
  | .next t => if t.busy then exec i t else .next t
  | .fault f => .fault f
  | .refused r => .refused r

/-- Commands one after another, each run to its completion. -/
def runCommands : List Instr → State → Host.Outcome State Fault Refusal
  | [], s => .next s
  | i :: is, s =>
    match runToCompletion i s with
    | .next t => runCommands is t
    | .fault f => .fault f
    | .refused r => .refused r

/-- What holds of the state after reset and is kept by every step. -/
structure Invariant (s : State) : Prop where
  /-- PEND is valid exactly when BUSY = 1 (10_state.md R38). -/
  pendValid : s.busy = s.pend.isSome
  /-- The pending command is well formed and still passes the checks it passed at acceptance (30_encoding.md R98). -/
  pendPasses : ∀ i, s.pend = some i → i.wf = true ∧ checkCommand i s = .noError
  /-- DONE = 0 while a command is pending (70_reset_and_hazards.md R256). -/
  busyNotDone : s.busy = true → s.done = false
  /-- ERRCODE is 0 exactly when ERR = 0 (10_state.md R23, 60_exceptions.md R221). -/
  errcodeMeansErr : s.errcode = .noError ↔ s.err = false
  /-- Without a valid key NR is 0 (10_state.md R23, R37). -/
  noKey : s.keyValid = false → s.nr = 0
  /-- A valid key is the expansion of the present KEY under the present CFG.KS, whose round count is NR: to expand it
  again would change nothing (10_state.md R37, 41_key_schedule.md R138, 70_reset_and_hazards.md R258). -/
  keyIsExpansion : s.keyValid = true → ∃ Nr Nk, keySize s.ks = some (Nr, Nk) ∧ keySizeRefused s.ks = false ∧
    s.nr = BitVec.ofNat 4 Nr ∧ expandKey s.key Nr Nk s.W = s.W
  /-- While reset is asserted no command is pending (70_reset_and_hazards.md R250). -/
  resetIdle : s.resetLine = true → s.busy = false

/-- The events the spec gives a step: a host access of 4 bytes at a multiple of 4 in 0x00..0x7C with reset released
(20_memory.md R72, R73; 70_reset_and_hazards.md R250), the engine's, and the reset input's. -/
def Admitted (s : State) : Event → Prop
  | .read off width => s.resetLine = false ∧ width = 4 ∧ off % 4 = 0 ∧ off ≤ 0x7C
  | .write off width _ => s.resetLine = false ∧ width = 4 ∧ off % 4 = 0 ∧ off ≤ 0x7C
  | .engine => True
  | .resetAssert => True
  | .resetRelease => True

end Sys2Proof.Machine
end

