-- ==== Sys2Proof/Certificates/Slice0/Obligations.lean ====
section
/-! DEFINITION. The statements for the provers, with the few terms they share. A statement about a command says three
things, as the spec's template does (00_scope.md R11): which words are the command, what its acceptance does (BUSY = 0),
and what its completion does (BUSY = 1). A state written `{ s with … }` is unchanged in every field not named, so each
of these statements is also the command's frame. -/

open Sys2Proof Sys2Proof.Machine

/-! ### Shared terms -/

/-- The answer of an acceptance that passes: DONE 0, BUSY 1, PEND the command, nothing else (R97). -/
def Claims.Accepted (i : Instr) (s : State) : Host.Outcome State Fault Refusal :=
  .next { s with done := false, busy := true, pend := some i }

/-- The answer of an acceptance that fails: ERR 1, ERRCODE the code unless an error stood already, DONE 1, nothing else
(R97, R222). -/
def Claims.Failed (c : ErrorCode) (s : State) : Host.Outcome State Fault Refusal :=
  .next { s with err := true, errcode := if s.err then s.errcode else c, done := true }

/-- Among the words whose OP field is `op`, those with no bit of `zero` set are the command `i v`, and every other
word fails with ILLEGAL_COMMAND when it is issued (the "Encoding" and the ILLEGAL_COMMAND part of a command rule). -/
def Claims.WordsOf (op : BitVec 6) (zero : Word32) (i : Word32 → Instr) : Prop :=
  ∀ v : Word32, v.extractLsb' 0 6 = op →
    if v &&& zero = 0 then decode v = .ok (i v)
    else ∀ s : State, s.busy = false → issueWord v s = Claims.Failed .illegalCommand s

/-- The answer of a completion that leaves the state `s` otherwise: BUSY 0, DONE 1, PEND empty (R98). -/
def Claims.Completed (s : State) : Host.Outcome State Fault Refusal :=
  .next { s with busy := false, done := true, pend := none }

/-- The acceptance of a command that can fail only as an illegal word: while BUSY = 0 it always passes. -/
def Claims.AlwaysAccepted (i : Instr) : Prop := ∀ s : State, s.busy = false → exec i s = Claims.Accepted i s

/-- The round index in bits 11:8 of a word. -/
def Claims.rndOf (v : Word32) : Nat := (v.extractLsb' 8 4).toNat

/-- The first byte operand, bits 23:16 of a word. -/
def Claims.aOf (v : Word32) : Byte := v.extractLsb' 16 8

/-- The second byte operand, bits 31:24 of a word. -/
def Claims.bOf (v : Word32) : Byte := v.extractLsb' 24 8

/-- The state after DIN is read as a 4x4 matrix: row `r` of column `c` is byte `r` of DINc, first byte in bits 31:24. -/
def Claims.dinMatrix (s : State) : Matrix := Matrix.ofFn fun r c => s.din[c].extractLsb' (24 - 8 * r.val) 8

/-- DOUT as the columns of a matrix: DOUTj is `M[0][j] ++ M[1][j] ++ M[2][j] ++ M[3][j]`. -/
def Claims.columns (M : Matrix) : Vector Word32 4 := Vector.ofFn fun j => M[0][j] ++ M[1][j] ++ M[2][j] ++ M[3][j]

/-! ### Encoding (30_encoding.md) -/

/-- Words written out from the spec's encodings decode to the commands they stand for (95_test_vectors.md V-ENC). -/
def Obligations.SpecWordsDecode : Prop :=
  decode 0x00000000 = .ok .nop ∧ decode 0x00000003 = .ok .expand ∧ decode 0x00000004 = .ok .encb ∧
  decode 0x00000A06 = .ok (.rnde 10) ∧ decode 0x00000B0E = .ok (.ark 11) ∧ decode 0x00000A0F = .ok (.ldrk 10) ∧
  decode 0x83570010 = .ok (.gfmul 0x57 0x83) ∧ decode 0x00570011 = .ok (.gfdbl 0x57) ∧
  decode 0x00530012 = .ok (.sbox 0x53) ∧ decode 0x00000014 = .error .reservedOpcode ∧
  decode 0x00000040 = .error .reservedBits ∧ decode 0x00001006 = .error .reservedBits ∧
  decode 0x00000104 = .error .unusedField ∧ decode 0xFF800011 = .error .unusedField

/-- Decoding the word of any well-formed command gives the command back, with every operand. -/
def Obligations.DecodeOfEncodeIsTheCommand : Prop := ∀ i : Instr, i.wf = true → decode (encode i) = .ok i

/-- A word that decodes is the word of the one well-formed command it decodes to. -/
def Obligations.EncodeOfDecodeIsTheWord : Prop :=
  ∀ (v : Word32) (i : Instr), decode v = .ok i → i.wf = true ∧ encode i = v

/-- The fields of the word that an OP value's format leaves unused, one of them nonzero (R91, R93). -/
def Claims.unusedFieldNonzero (v : Word32) : Bool :=
  match (v.extractLsb' 0 6).toNat with
  | 0x06 | 0x07 | 0x0E | 0x0F => Claims.aOf v ≠ 0 ∨ Claims.bOf v ≠ 0
  | 0x10 => Claims.rndOf v ≠ 0
  | 0x11 | 0x12 | 0x13 => Claims.rndOf v ≠ 0 ∨ Claims.bOf v ≠ 0
  | _ => Claims.rndOf v ≠ 0 ∨ Claims.aOf v ≠ 0 ∨ Claims.bOf v ≠ 0

/-- R94: which words are illegal, what an illegal word does at acceptance, and that 0 is the only NOP. -/
def Obligations.IllegalWordsOnlyRecordAnError : Prop :=
  (∀ v : Word32, (∃ r, decode v = .error r) ↔
    ((v.extractLsb' 0 6).toNat ≥ 0x14 ∨ v.extractLsb' 6 2 ≠ 0 ∨ v.extractLsb' 12 4 ≠ 0 ∨
      Claims.unusedFieldNonzero v = true)) ∧
  (∀ (s : State) (v : Word32) (r : IllegalWord) (rest : List Event),
    decode v = .error r → s.busy = false → s.resetLine = false → s.agenda = .write 0x00 4 v :: rest →
    step s = Claims.Failed .illegalCommand { s with agenda := rest }) ∧
  (∀ v : Word32, decode v = .ok .nop ↔ v = 0)

/-- The lines without operands of R93, with R100's INITRK. -/
def Claims.plainLines : List (String × Instr) :=
  [("NOP", .nop), ("LDST", .ldst), ("STST", .stst), ("EXPAND", .expand), ("ENCB", .encb), ("DECB", .decb),
   ("SUB", .sub), ("ISUB", .isub), ("SHR", .shr), ("ISHR", .ishr), ("MIX", .mix), ("IMIX", .imix), ("INITRK", .ark 0)]

/-- The lines with a round operand of R93. -/
def Claims.roundLines : List (String × (Nat → Instr)) :=
  [("RNDE", .rnde), ("RNDD", .rndd), ("ARK", .ark), ("LDRK", .ldrk)]

/-- The lines with one byte operand of R93, with the pseudo-instructions of R100. -/
def Claims.byteLines : List (String × (Byte → Instr)) :=
  [("GFDBL", .gfdbl), ("SBOX", .sbox), ("ISBOX", .isbox), ("XTIME", .gfdbl), ("GFMUL3", fun a => .gfmul a 3),
   ("GFMUL9", fun a => .gfmul a 9), ("GFMUL11", fun a => .gfmul a 11), ("GFMUL13", fun a => .gfmul a 13),
   ("GFMUL14", fun a => .gfmul a 14)]

/-- The word R99 gives a command, as a number: `b << 24 | a << 16 | rnd << 8 | op` with the opcodes of R93. -/
def Claims.wordOf : Instr → Nat
  | .nop => 0x00
  | .ldst => 0x01
  | .stst => 0x02
  | .expand => 0x03
  | .encb => 0x04
  | .decb => 0x05
  | .rnde rnd => rnd * 2 ^ 8 + 0x06
  | .rndd rnd => rnd * 2 ^ 8 + 0x07
  | .sub => 0x08
  | .isub => 0x09
  | .shr => 0x0A
  | .ishr => 0x0B
  | .mix => 0x0C
  | .imix => 0x0D
  | .ark rnd => rnd * 2 ^ 8 + 0x0E
  | .ldrk rnd => rnd * 2 ^ 8 + 0x0F
  | .gfmul a b => b.toNat * 2 ^ 24 + a.toNat * 2 ^ 16 + 0x10
  | .gfdbl a => a.toNat * 2 ^ 16 + 0x11
  | .sbox a => a.toNat * 2 ^ 16 + 0x12
  | .isbox a => a.toNat * 2 ^ 16 + 0x13

/-- R99 and R100: every line of the assembler gives its command with exactly its operands, an operand out of range gives
none, nothing else assembles, the case of the mnemonic does not matter, and the word of what assembles is R99's and
decodes to it again. Lines start from a mnemonic and numbers (log entry 18). -/
def Obligations.AssemblerWritesOneLegalWord : Prop :=
  (∀ p ∈ Claims.plainLines, assemble ⟨p.1, []⟩ = some p.2) ∧
  (∀ p ∈ Claims.roundLines, ∀ r : Nat, assemble ⟨p.1, [r]⟩ = if r ≤ 15 then some (p.2 r) else none) ∧
  (∀ p ∈ Claims.byteLines, ∀ a : Nat,
    assemble ⟨p.1, [a]⟩ = if a ≤ 255 then some (p.2 (BitVec.ofNat 8 a)) else none) ∧
  (∀ a b : Nat, assemble ⟨"GFMUL", [a, b]⟩ =
    if a ≤ 255 ∧ b ≤ 255 then some (.gfmul (BitVec.ofNat 8 a) (BitVec.ofNat 8 b)) else none) ∧
  (∀ (m m' : String) (ops : List Nat), m.toUpper = m'.toUpper → assemble ⟨m, ops⟩ = assemble ⟨m', ops⟩) ∧
  (∀ (l : AsmLine) (i : Instr), assemble l = some i →
    ((∃ p ∈ Claims.plainLines, l.mnemonic.toUpper = p.1 ∧ l.operands = []) ∨
      (∃ p ∈ Claims.roundLines, l.mnemonic.toUpper = p.1 ∧ l.operands.length = 1) ∨
      (∃ p ∈ Claims.byteLines, l.mnemonic.toUpper = p.1 ∧ l.operands.length = 1) ∨
      (l.mnemonic.toUpper = "GFMUL" ∧ l.operands.length = 2)) ∧
    i.wf = true ∧ (encode i).toNat = Claims.wordOf i ∧ decode (encode i) = .ok i)

/-- R100: each pseudo-instruction assembles to exactly what its expansion assembles to, and to a command whenever its
operand is in range. -/
def Obligations.PseudoInstructionsExpand : Prop :=
  (∀ a : Nat,
    assemble ⟨"XTIME", [a]⟩ = assemble ⟨"GFDBL", [a]⟩ ∧ assemble ⟨"GFMUL3", [a]⟩ = assemble ⟨"GFMUL", [a, 3]⟩ ∧
    assemble ⟨"GFMUL9", [a]⟩ = assemble ⟨"GFMUL", [a, 9]⟩ ∧ assemble ⟨"GFMUL11", [a]⟩ = assemble ⟨"GFMUL", [a, 11]⟩ ∧
    assemble ⟨"GFMUL13", [a]⟩ = assemble ⟨"GFMUL", [a, 13]⟩ ∧
    assemble ⟨"GFMUL14", [a]⟩ = assemble ⟨"GFMUL", [a, 14]⟩) ∧
  (∀ p ∈ ["XTIME", "GFMUL3", "GFMUL9", "GFMUL11", "GFMUL13", "GFMUL14"], ∀ a : Nat, a ≤ 255 →
    ∃ i, assemble ⟨p, [a]⟩ = some i) ∧
  assemble ⟨"INITRK", []⟩ = assemble ⟨"ARK", [0]⟩ ∧ ∃ i, assemble ⟨"INITRK", []⟩ = some i

/-! ### The step -/

/-- A CMD write that carries the word of a command, to an idle block, is `exec` of that command. -/
def Obligations.StepIssuesTheDecodedCommand : Prop :=
  ∀ (s : State) (v : Word32) (i : Instr) (rest : List Event),
    decode v = .ok i → s.busy = false → s.resetLine = false → s.agenda = .write 0x00 4 v :: rest →
    step s = exec i { s with agenda := rest }

/-- The engine's step is `exec` of the pending command; it comes at an engine slot, and by itself when no event is
left (log entry 2). -/
def Obligations.StepCompletesThePendingCommand : Prop :=
  ∀ (s : State) (i : Instr) (rest : List Event),
    s.busy = true → s.pend = some i → (s.agenda = .engine :: rest ∨ (s.agenda = [] ∧ rest = [])) →
    step s = exec i { s with agenda := rest }

/-- With BUSY = 0 the engine takes no step (R252), and an idle block keeps all its state (R245). That an engine slot may
pass, and what a step is with no event left, are the model's choice (log entry 2). -/
def Obligations.IdleBlockKeepsItsState : Prop :=
  ∀ (s : State) (rest : List Event), s.busy = false →
    (s.agenda = [] → step s = .next s) ∧
    (s.agenda = .engine :: rest → step s = .next { s with agenda := rest })

/-- Placing a command word makes the very next step run its command. -/
def Obligations.PlacedWordRunsNext : Prop :=
  ∀ (s : State) (w : Nat) (i : Instr), w < 2 ^ 32 → decodeTableWord 32 w = some i →
    step (s.withFetchWord 32 w) = exec i { s with busy := false, pend := none, resetLine := false }

/-! ### Acceptance and errors (30_encoding.md R97, 60_exceptions.md) -/

/-- The commands of R224's KEY_NOT_READY line. -/
def Claims.readsRoundKeys : Instr → Bool
  | .encb | .decb | .rnde _ | .rndd _ | .ark _ | .ldrk _ => true
  | _ => false

/-- R224's ROUND_RANGE lines, for a valid key of `nr` rounds. -/
def Claims.outOfRange (nr : Nat) : Instr → Bool
  | .ark rnd | .ldrk rnd => nr < rnd
  | .rnde rnd => rnd = 0 ∨ nr < rnd
  | .rndd rnd => nr ≤ rnd
  | _ => false

/-- R97 and R224: a CMD write is checked for BUSY, then decoded, then checked for the key size, the key and the round
in this order; the first check that fails gives the code, and a command that passes them all is latched. The round
checks never meet NR = 0: a valid key has 10, 12 or 14 rounds. -/
def Obligations.CmdWriteFollowsTheCheckOrder : Prop :=
  (∀ s : State, Invariant s → s.keyValid = true → s.nr = 10 ∨ s.nr = 12 ∨ s.nr = 14) ∧
  ∀ (s : State) (v : Word32) (rest : List Event),
    s.resetLine = false → s.agenda = .write 0x00 4 v :: rest →
    step s =
      if s.busy then
        .next { s with agenda := rest, err := true, errcode := if s.err then s.errcode else .busy }
      else match decode v with
        | .error _ => Claims.Failed .illegalCommand { s with agenda := rest }
        | .ok i =>
          if i = .expand ∧ (s.ks = 0b11 ∨ (s.ks = 0b01 ∧ Config.allowAes192 = false)) then
            Claims.Failed .invalidKeySize { s with agenda := rest }
          else if Claims.readsRoundKeys i = true ∧ s.keyValid = false then
            Claims.Failed .keyNotReady { s with agenda := rest }
          else if Claims.outOfRange s.nr.toNat i = true then
            Claims.Failed .roundRange { s with agenda := rest }
          else Claims.Accepted i { s with agenda := rest }

/-- R223: a command that fails its checks changes only ERR, ERRCODE and DONE, one that passes completes in full, and a
write that BUSY = 1 drops changes only ERR and ERRCODE (and leaves the agenda, where the model keeps it). -/
def Obligations.ErrorsArePrecise : Prop :=
  (∀ (i : Instr) (s : State), s.busy = false →
    ∃ t, exec i s = .next t ∧
      ((t.busy = false ∧ t = { s with err := true, errcode := t.errcode, done := true }) ∨
       (t.busy = true ∧ t.pend = some i ∧
         ∃ u, exec i t = .next u ∧ u.busy = false ∧ u.done = true ∧ u.err = s.err ∧ u.errcode = s.errcode))) ∧
  (∀ (s : State) (off : Nat) (v : Word32) (rest : List Event),
    s.busy = true → s.resetLine = false → s.agenda = .write off 4 v :: rest → off % 4 = 0 →
    (off = 0x00 ∨ off = 0x08 ∨ (0x20 ≤ off ∧ off ≤ 0x4C)) →
    step s = .next
      { s with agenda := rest, err := true, errcode := if s.err then s.errcode else .busy })

/-- R222: an error is recorded only if ERR was 0; then ERR becomes 1 and ERRCODE the code, else both stay. The two
places an error arises set DONE (a failed acceptance) or leave it (a dropped write). -/
def Obligations.FirstErrorIsKept : Prop :=
  ∀ (s : State) (c : ErrorCode),
    (s.err = false → raiseError c s = { s with err := true, errcode := c }) ∧
    (s.err = true → raiseError c s = s) ∧
    failCommand c s = { raiseError c s with done := true } ∧
    (∀ write, s.busy = true → unlessBusy write s = raiseError .busy s)

/-! ### The commands -/

/-- R154, NOP. -/
def Obligations.NopOnlyCompletes : Prop :=
  Claims.WordsOf 0x00 0xFFFFFFC0 (fun _ => .nop) ∧ Claims.AlwaysAccepted .nop ∧
  ∀ s : State, s.busy = true → exec .nop s = Claims.Completed s

/-- R152, LDST, and R153, STST. -/
def Obligations.LdstAndStstMoveTheBlock : Prop :=
  Claims.WordsOf 0x01 0xFFFFFFC0 (fun _ => .ldst) ∧ Claims.AlwaysAccepted .ldst ∧
  (∀ s : State, s.busy = true → exec .ldst s = Claims.Completed { s with S := Claims.dinMatrix s }) ∧
  Claims.WordsOf 0x02 0xFFFFFFC0 (fun _ => .stst) ∧ Claims.AlwaysAccepted .stst ∧
  (∀ s : State, s.busy = true → exec .stst s = Claims.Completed { s with dout := Claims.columns s.S })

/-- The word `t` of R132's loop made of the previous word `p`. -/
def Claims.stepWord (Nk i : Nat) (p : Quad) : Quad :=
  if i % Nk = 0 then #v[sbox p[1] ^^^ rcon (i / Nk - 1), sbox p[2], sbox p[3], sbox p[0]]
  else if Nk = 8 ∧ i % Nk = 4 then #v[sbox p[0], sbox p[1], sbox p[2], sbox p[3]]
  else p

/-- R132, EXPAND, with its acceptance R134 and the sizes of R130: the raw key words, the recurrence, the words left
alone, and the key becoming valid. -/
def Obligations.ExpandFollowsTheRecurrence : Prop :=
  Claims.WordsOf 0x03 0xFFFFFFC0 (fun _ => .expand) ∧
  (∀ s : State, s.busy = false → exec .expand s =
    if s.ks = 0b11 ∨ (s.ks = 0b01 ∧ Config.allowAes192 = false) then Claims.Failed .invalidKeySize s
    else Claims.Accepted .expand s) ∧
  (∀ (s : State) (Nr Nk : Nat), s.busy = true →
    ((s.ks = 0b00 ∧ Nr = 10 ∧ Nk = 4) ∨ (s.ks = 0b01 ∧ Nr = 12 ∧ Nk = 6) ∨ (s.ks = 0b10 ∧ Nr = 14 ∧ Nk = 8)) →
    ∃ W' : Vector Quad 60,
      (∀ i, i < Nk → ∀ k : Fin 4, (expandedWord W' i)[k] = (s.key[i]?.getD 0).extractLsb' (24 - 8 * k.val) 8) ∧
      (∀ i, Nk ≤ i → i < 4 * (Nr + 1) → ∀ k : Fin 4,
        (expandedWord W' i)[k] =
          (Claims.stepWord Nk i (expandedWord W' (i - 1)))[k] ^^^ (expandedWord W' (i - Nk))[k]) ∧
      (∀ i, 4 * (Nr + 1) ≤ i → expandedWord W' i = expandedWord s.W i) ∧
      exec .expand s = Claims.Completed { s with W := W', keyValid := true, nr := BitVec.ofNat 4 Nr })

/-- The acceptance of a command that reads round key `rnd`, out of range when `bad`. -/
def Claims.KeyedAcceptance (i : Instr) (bad : State → Prop) : Prop :=
  ∀ s : State, s.busy = false →
    (s.keyValid = false → exec i s = Claims.Failed .keyNotReady s) ∧
    (s.keyValid = true → bad s → exec i s = Claims.Failed .roundRange s) ∧
    (s.keyValid = true → ¬ bad s → exec i s = Claims.Accepted i s)

/-- `RoundKey(rnd)`: word `4·rnd + c` of `W` becomes column `c` (R136). -/
def Claims.roundKeyOf (s : State) (rnd : Nat) : Matrix :=
  Matrix.ofFn fun r c => (expandedWord s.W (4 * rnd + c.val))[r]

/-- R137, LDRK, with the transpose of R136. -/
def Obligations.LdrkLoadsTheRoundKey : Prop :=
  Claims.WordsOf 0x0F 0xFFFFF0C0 (fun v => .ldrk (Claims.rndOf v)) ∧
  ∀ rnd : Nat, Claims.KeyedAcceptance (.ldrk rnd) (fun s => rnd > s.nr.toNat) ∧
    ∀ s : State, s.busy = true →
      exec (.ldrk rnd) s = Claims.Completed { s with RK := Claims.roundKeyOf s rnd }

/-- R116, GFMUL, and R117, GFDBL. -/
def Obligations.GfmulAndGfdblWriteTheProduct : Prop :=
  Claims.WordsOf 0x10 0x0000FFC0 (fun v => .gfmul (Claims.aOf v) (Claims.bOf v)) ∧
  Claims.WordsOf 0x11 0xFF00FFC0 (fun v => .gfdbl (Claims.aOf v)) ∧
  ∀ a b : Byte,
    Claims.AlwaysAccepted (.gfmul a b) ∧ Claims.AlwaysAccepted (.gfdbl a) ∧
    ∀ s : State, s.busy = true →
      exec (.gfmul a b) s = Claims.Completed { s with gfres := multiply a b } ∧
      exec (.gfdbl a) s = Claims.Completed { s with gfres := double a }

/-- R170, SUB, and R171, ISUB: every byte of `S` through the table, and nothing else changed. -/
def Obligations.SubAndIsubReplaceEveryByte : Prop :=
  Claims.WordsOf 0x08 0xFFFFFFC0 (fun _ => .sub) ∧ Claims.AlwaysAccepted .sub ∧
  Claims.WordsOf 0x09 0xFFFFFFC0 (fun _ => .isub) ∧ Claims.AlwaysAccepted .isub ∧
  ∀ s : State, s.busy = true → ∃ M N : Matrix,
    (∀ r c : Fin 4, M[r][c] = sbox s.S[r][c] ∧ N[r][c] = invSbox s.S[r][c]) ∧
    exec .sub s = Claims.Completed { s with S := M } ∧ exec .isub s = Claims.Completed { s with S := N }

/-- R172, SBOX, and R173, ISBOX. -/
def Obligations.SboxAndIsboxLookUpOneByte : Prop :=
  Claims.WordsOf 0x12 0xFF00FFC0 (fun v => .sbox (Claims.aOf v)) ∧
  Claims.WordsOf 0x13 0xFF00FFC0 (fun v => .isbox (Claims.aOf v)) ∧
  ∀ a : Byte,
    Claims.AlwaysAccepted (.sbox a) ∧ Claims.AlwaysAccepted (.isbox a) ∧
    ∀ s : State, s.busy = true →
      exec (.sbox a) s = Claims.Completed { s with gfres := sbox a } ∧
      exec (.isbox a) s = Claims.Completed { s with gfres := invSbox a }

/-- R174, SHR, and R175, ISHR: row `r` rotated left, and right, by `r`. -/
def Obligations.ShrAndIshrRotateTheRows : Prop :=
  Claims.WordsOf 0x0A 0xFFFFFFC0 (fun _ => .shr) ∧ Claims.AlwaysAccepted .shr ∧
  Claims.WordsOf 0x0B 0xFFFFFFC0 (fun _ => .ishr) ∧ Claims.AlwaysAccepted .ishr ∧
  ∀ s : State, s.busy = true → ∃ M N : Matrix,
    (∀ r c : Fin 4, M[r][c] = s.S[r][Fin.ofNat 4 (c.val + r.val)] ∧
      N[r][c] = s.S[r][Fin.ofNat 4 (c.val + 4 - r.val)]) ∧
    exec .shr s = Claims.Completed { s with S := M } ∧ exec .ishr s = Claims.Completed { s with S := N }

/-- R178, MIX, and R179, IMIX: the four equations of each column. -/
def Obligations.MixAndImixCombineTheColumns : Prop :=
  Claims.WordsOf 0x0C 0xFFFFFFC0 (fun _ => .mix) ∧ Claims.AlwaysAccepted .mix ∧
  Claims.WordsOf 0x0D 0xFFFFFFC0 (fun _ => .imix) ∧ Claims.AlwaysAccepted .imix ∧
  ∀ s : State, s.busy = true → ∃ M N : Matrix,
    (∀ (c : Fin 4) (s0 s1 s2 s3 : Byte), col s.S c = #v[s0, s1, s2, s3] →
      col M c = #v[
        multiply 2 s0 ^^^ multiply 3 s1 ^^^ s2 ^^^ s3,
        s0 ^^^ multiply 2 s1 ^^^ multiply 3 s2 ^^^ s3,
        s0 ^^^ s1 ^^^ multiply 2 s2 ^^^ multiply 3 s3,
        multiply 3 s0 ^^^ s1 ^^^ s2 ^^^ multiply 2 s3] ∧
      col N c = #v[
        multiply 14 s0 ^^^ multiply 11 s1 ^^^ multiply 13 s2 ^^^ multiply 9 s3,
        multiply 9 s0 ^^^ multiply 14 s1 ^^^ multiply 11 s2 ^^^ multiply 13 s3,
        multiply 13 s0 ^^^ multiply 9 s1 ^^^ multiply 14 s2 ^^^ multiply 11 s3,
        multiply 11 s0 ^^^ multiply 13 s1 ^^^ multiply 9 s2 ^^^ multiply 14 s3]) ∧
    exec .mix s = Claims.Completed { s with S := M } ∧ exec .imix s = Claims.Completed { s with S := N }

/-- R182, ARK. -/
def Obligations.ArkInjectsTheRoundKey : Prop :=
  Claims.WordsOf 0x0E 0xFFFFF0C0 (fun v => .ark (Claims.rndOf v)) ∧
  ∀ rnd : Nat, Claims.KeyedAcceptance (.ark rnd) (fun s => rnd > s.nr.toNat) ∧
    ∀ s : State, s.busy = true → ∃ M : Matrix,
      (∀ r c : Fin 4, M[r][c] = s.S[r][c] ^^^ (expandedWord s.W (4 * rnd + c.val))[r]) ∧
      exec (.ark rnd) s = Claims.Completed { s with S := M, RK := Claims.roundKeyOf s rnd }

/-- R200, RNDE. -/
def Obligations.RndeIsOneForwardRound : Prop :=
  Claims.WordsOf 0x06 0xFFFFF0C0 (fun v => .rnde (Claims.rndOf v)) ∧
  ∀ rnd : Nat, Claims.KeyedAcceptance (.rnde rnd) (fun s => rnd = 0 ∨ rnd > s.nr.toNat) ∧
    ∀ s : State, s.busy = true →
      (rnd ≠ s.nr.toNat → exec (.rnde rnd) s = Claims.Completed
        { s with S := addRoundKey (mixColumns (shiftRows (subBytes s.S))) (Claims.roundKeyOf s rnd)
                 RK := Claims.roundKeyOf s rnd }) ∧
      (rnd = s.nr.toNat → exec (.rnde rnd) s = Claims.Completed
        { s with S := addRoundKey (shiftRows (subBytes s.S)) (Claims.roundKeyOf s rnd)
                 RK := Claims.roundKeyOf s rnd })

/-- R201, RNDD. -/
def Obligations.RnddIsOneInverseRound : Prop :=
  Claims.WordsOf 0x07 0xFFFFF0C0 (fun v => .rndd (Claims.rndOf v)) ∧
  ∀ rnd : Nat, Claims.KeyedAcceptance (.rndd rnd) (fun s => rnd ≥ s.nr.toNat) ∧
    ∀ s : State, s.busy = true →
      (rnd > 0 → exec (.rndd rnd) s = Claims.Completed
        { s with S := invMixColumns (addRoundKey (invSubBytes (invShiftRows s.S)) (Claims.roundKeyOf s rnd))
                 RK := Claims.roundKeyOf s rnd }) ∧
      (rnd = 0 → exec (.rndd rnd) s = Claims.Completed
        { s with S := addRoundKey (invSubBytes (invShiftRows s.S)) (Claims.roundKeyOf s rnd)
                 RK := Claims.roundKeyOf s rnd })

/-- R202, ENCB: `X 0` is the block with round key 0 injected, `X rnd` the state after round `rnd`. -/
def Obligations.EncbEncryptsTheBlock : Prop :=
  Claims.WordsOf 0x04 0xFFFFFFC0 (fun _ => .encb) ∧ Claims.KeyedAcceptance .encb (fun _ => False) ∧
  ∀ s : State, s.busy = true → ∃ X : Nat → Matrix,
    X 0 = addRoundKey (Claims.dinMatrix s) (Claims.roundKeyOf s 0) ∧
    (∀ rnd, 1 ≤ rnd → rnd ≤ s.nr.toNat → X rnd =
      if rnd = s.nr.toNat then addRoundKey (shiftRows (subBytes (X (rnd - 1)))) (Claims.roundKeyOf s rnd)
      else addRoundKey (mixColumns (shiftRows (subBytes (X (rnd - 1))))) (Claims.roundKeyOf s rnd)) ∧
    exec .encb s = Claims.Completed
      { s with S := X s.nr.toNat, RK := Claims.roundKeyOf s s.nr.toNat, dout := Claims.columns (X s.nr.toNat) }

/-- R203, DECB: `X NR` is the block with round key NR injected, `X rnd` the state after inverse round `rnd`. -/
def Obligations.DecbDecryptsTheBlock : Prop :=
  Claims.WordsOf 0x05 0xFFFFFFC0 (fun _ => .decb) ∧ Claims.KeyedAcceptance .decb (fun _ => False) ∧
  ∀ s : State, s.busy = true → ∃ X : Nat → Matrix,
    X s.nr.toNat = addRoundKey (Claims.dinMatrix s) (Claims.roundKeyOf s s.nr.toNat) ∧
    (∀ rnd, rnd < s.nr.toNat → X rnd =
      if rnd = 0 then addRoundKey (invSubBytes (invShiftRows (X (rnd + 1)))) (Claims.roundKeyOf s rnd)
      else invMixColumns (addRoundKey (invSubBytes (invShiftRows (X (rnd + 1)))) (Claims.roundKeyOf s rnd))) ∧
    exec .decb s = Claims.Completed
      { s with S := X 0, RK := Claims.roundKeyOf s 0, dout := Claims.columns (X 0) }

/-! ### Arithmetic and tables (40_gf_arith.md, 10_state.md section 4) -/

/-- R110 and R111: doubling as reduction of the shifted number, and the loop of the multiplication over the bits of
`b`, least significant first. -/
def Obligations.DoubleAndMultiplyAreTheFieldLoop : Prop :=
  (∀ b : Byte, (double b).toNat = if b.toNat < 128 then 2 * b.toNat else (2 * b.toNat - 256) ^^^ 0x1B) ∧
  ∀ a b : Byte, ∃ acc x : Nat → Byte,
    acc 0 = 0 ∧ x 0 = a ∧
    (∀ i, i < 8 → acc (i + 1) = (if b.getLsbD i then acc i ^^^ x i else acc i) ∧ x (i + 1) = double (x i)) ∧
    multiply a b = acc 8

/-- R114: multiplication is commutative, with 0 absorbing and 1 the identity. -/
def Obligations.MultiplyObeysTheFieldLaws : Prop :=
  ∀ a b : Byte, multiply a b = multiply b a ∧ multiply a 0 = 0 ∧ multiply a 1 = a

/-- R113: each fixed-multiplier shortcut is the multiplication by its constant. -/
def Obligations.ShortcutsAreMultiplications : Prop :=
  ∀ b : Byte, mul3 b = multiply b 3 ∧ mul9 b = multiply b 9 ∧ mul11 b = multiply b 11 ∧ mul13 b = multiply b 13 ∧
    mul14 b = multiply b 14

/-- R42: the ten round constants and their recurrence. -/
def Obligations.RoundConstantsDouble : Prop :=
  (List.range 10).map rcon = [0x01, 0x02, 0x04, 0x08, 0x10, 0x20, 0x40, 0x80, 0x1B, 0x36] ∧
  rcon 0 = 0x01 ∧ ∀ j, j < 9 → rcon (j + 1) = double (rcon j)

/-- The affine map of the FIPS-197 construction, with constant 0x63. -/
def Claims.affine (y : Byte) : Byte :=
  y ^^^ y.rotateLeft 1 ^^^ y.rotateLeft 2 ^^^ y.rotateLeft 3 ^^^ y.rotateLeft 4 ^^^ 0x63

/-- R41 and the construction of 10_state.md section 4: the tables are inverse to each other, and every SBOX entry is
the affine map of the multiplicative inverse of its index (of 0 for 0). -/
def Obligations.SubstitutionTablesAreTheConstruction : Prop :=
  ∀ x : Byte, invSbox (sbox x) = x ∧ sbox (invSbox x) = x ∧
    ∃ y : Byte, (if x = 0 then y = 0 else multiply x y = 1) ∧ sbox x = Claims.affine y

/-! ### Laws of the transforms and the block commands (43_round_transforms.md, 44_block_sequencer.md) -/

/-- Of two commands completed one after the other, the second restores `S`. -/
def Claims.Undoes (second first : Instr) : Prop :=
  ∀ s t : State, s.busy = true → exec first s = .next t →
    ∃ u, exec second { t with busy := true } = .next u ∧ u.S = s.S

/-- Substitution and row rotation are undone by their inverses both ways (R171, R176), and ARK by itself (R183). -/
def Obligations.SubstitutionRotationAndInjectionAreUndone : Prop :=
  Claims.Undoes .isub .sub ∧ Claims.Undoes .sub .isub ∧ Claims.Undoes .ishr .shr ∧ Claims.Undoes .shr .ishr ∧
  ∀ rnd, Claims.Undoes (.ark rnd) (.ark rnd)

/-- Column mixing is undone by its inverse both ways, on every state (R180). -/
def Obligations.ColumnMixingIsUndone : Prop := Claims.Undoes .imix .mix ∧ Claims.Undoes .mix .imix

/-- Lanes are independent (R184): a byte for SUB, ISUB and, with the same byte of the key, ARK; a row for SHR and ISHR; a
column for MIX and IMIX. -/
def Obligations.LanesAreIndependent : Prop :=
  ∀ (M N K L : Matrix) (r c : Fin 4),
    (M[r][c] = N[r][c] → (subBytes M)[r][c] = (subBytes N)[r][c] ∧ (invSubBytes M)[r][c] = (invSubBytes N)[r][c]) ∧
    (M[r][c] = N[r][c] → K[r][c] = L[r][c] → (addRoundKey M K)[r][c] = (addRoundKey N L)[r][c]) ∧
    (M[r] = N[r] → (shiftRows M)[r] = (shiftRows N)[r] ∧ (invShiftRows M)[r] = (invShiftRows N)[r]) ∧
    (col M c = col N c → col (mixColumns M) c = col (mixColumns N) c ∧
      col (invMixColumns M) c = col (invMixColumns N) c)

/-- The transforms of forward round `rnd` as single commands (R204). -/
def Claims.forwardSteps (nr rnd : Nat) : List Instr :=
  if rnd = nr then [.sub, .shr, .ark rnd] else [.sub, .shr, .mix, .ark rnd]

/-- A block command in steps: LDST, ARK `first`, the given rounds, STST (R204, R205). -/
def Claims.blockSteps (first : Nat) (rounds : List Instr) : List Instr :=
  Instr.ldst :: Instr.ark first :: (rounds ++ [Instr.stst])

/-- R204: ENCB leaves the same state as LDST, ARK 0, RNDE 1, ..., RNDE NR, STST, and as the single transforms. -/
def Obligations.EncbIsItsSteps : Prop :=
  ∀ s : State, s.busy = false → s.keyValid = true →
    runCommands (Claims.blockSteps 0 ((List.range s.nr.toNat).map fun k => Instr.rnde (k + 1))) s
      = runToCompletion .encb s ∧
    runCommands (Claims.blockSteps 0 ((List.range s.nr.toNat).flatMap fun k => Claims.forwardSteps s.nr.toNat (k + 1))) s
      = runToCompletion .encb s

/-- R205: DECB leaves the same state as LDST, ARK NR, RNDD NR-1, ..., RNDD 0, STST, and each RNDD as its transforms. -/
def Obligations.DecbIsItsSteps : Prop :=
  ∀ s : State, s.busy = false → s.keyValid = true →
    runCommands (Claims.blockSteps s.nr.toNat ((List.range s.nr.toNat).reverse.map Instr.rndd)) s
      = runToCompletion .decb s ∧
    ∀ rnd, rnd < s.nr.toNat →
      runCommands (if rnd = 0 then [.ishr, .isub, .ark rnd] else [.ishr, .isub, .ark rnd, .imix]) s
        = runToCompletion (.rndd rnd) s

/-- R206: decrypting what was encrypted, and encrypting what was decrypted, under the same `W`, gives the block back,
whatever the block, the expanded key and the round count. -/
def Obligations.EncryptionAndDecryptionRoundTrip : Prop :=
  ∀ s : State, s.busy = true →
    (∃ t u, exec .encb s = .next t ∧ exec .decb { t with busy := true, din := t.dout } = .next u ∧ u.dout = s.din) ∧
    (∃ t u, exec .decb s = .next t ∧ exec .encb { t with busy := true, din := t.dout } = .next u ∧ u.dout = s.din)

/-- R207: the results of ENCB and DECB depend only on DIN, NR and `W[0..4·(NR+1)-1]`. -/
def Obligations.BlocksAreIndependent : Prop :=
  ∀ s t : State, s.busy = true → t.busy = true → s.din = t.din → s.nr = t.nr →
    (∀ i, i < 4 * (s.nr.toNat + 1) → expandedWord s.W i = expandedWord t.W i) →
    ∀ i : Instr, i = .encb ∨ i = .decb →
      ∃ s' t', exec i s = .next s' ∧ exec i t = .next t' ∧ s'.dout = t'.dout ∧ s'.S = t'.S ∧ s'.RK = t'.RK

/-- R138: the words EXPAND writes, and NR, depend only on CFG.KS and the first `Nk` KEY registers. -/
def Obligations.ExpansionIsDeterministic : Prop :=
  ∀ (s t : State) (Nr Nk : Nat), s.busy = true → t.busy = true → s.ks = t.ks → keySize s.ks = some (Nr, Nk) →
    (∀ i, i < Nk → s.key[i]? = t.key[i]?) →
    ∃ s' t', exec .expand s = .next s' ∧ exec .expand t = .next t' ∧ s'.nr = t'.nr ∧
      ∀ i, i < 4 * (Nr + 1) → expandedWord s'.W i = expandedWord t'.W i

/-! ### The register window (10_state.md, 20_memory.md) -/

/-- STATUS and CFG as numbers, field by field (R23, R25), with the code numbers of R221. -/
def Obligations.StatusAndCfgHoldTheirFields : Prop :=
  (∀ s : State,
    (statusWord s).toNat = s.busy.toNat + 2 * s.done.toNat + 4 * s.err.toNat + 8 * s.keyValid.toNat
      + 16 * s.errcode.code.toNat + 256 * s.nr.toNat ∧
    (cfgWord s).toNat = s.ks.toNat + 4 * s.ie.toNat) ∧
  [ErrorCode.noError, .invalidKeySize, .keyNotReady, .illegalCommand, .busy, .roundRange].map ErrorCode.code
    = [0, 1, 2, 3, 4, 5]

/-- R76: the packing of bytes into registers, first byte most significant, and its inverse. -/
def Obligations.PackingIsBigEndian : Prop :=
  (∀ t : Quad, (pack t).toNat = t[0].toNat * 2 ^ 24 + t[1].toNat * 2 ^ 16 + t[2].toNat * 2 ^ 8 + t[3].toNat ∧
    unpack (pack t) = t) ∧
  (∀ v : Word32, pack (unpack v) = v) ∧
  (∀ (g : Vector Word32 4) (j m : Fin 4),
    (blockOfRegs g)[4 * j.val + m.val]? = some (g[j].extractLsb' (24 - 8 * m.val) 8) ∧
    regsOfBlock (blockOfRegs g) = g)

/-- R150 and R151: the conversions between a block and a state are column-major and inverse to each other. -/
def Obligations.BlockAndStateConvertColumnMajor : Prop :=
  (∀ (B : Block) (r c : Fin 4), B[4 * c.val + r.val]? = some (toState B)[r][c]) ∧
  (∀ (M : Matrix) (r c : Fin 4), (toBytes M)[4 * c.val + r.val]? = some M[r][c]) ∧
  (∀ B : Block, toBytes (toState B) = B) ∧ (∀ M : Matrix, toState (toBytes M) = M)

/-- The table of R72. -/
def Claims.busReadTable (s : State) (off : Nat) : Word32 :=
  if off = 0x04 then statusWord s
  else if off = 0x08 then cfgWord s
  else if off = 0x0C then 0x41455301
  else if off = 0x10 then (if s.busy then Config.draw s.draws else s.gfres.setWidth 32)
  else if 0x20 ≤ off ∧ off ≤ 0x3C then s.key[Fin.ofNat 8 ((off - 0x20) / 4)]
  else if 0x40 ≤ off ∧ off ≤ 0x4C then s.din[Fin.ofNat 4 ((off - 0x40) / 4)]
  else if 0x50 ≤ off ∧ off ≤ 0x5C then
    (if s.busy then Config.draw s.draws else s.dout[Fin.ofNat 4 ((off - 0x50) / 4)])
  else if 0x60 ≤ off ∧ off ≤ 0x6C then
    (if s.busy then Config.draw s.draws else (Claims.columns s.S)[Fin.ofNat 4 ((off - 0x60) / 4)])
  else if 0x70 ≤ off ∧ off ≤ 0x7C then
    (if s.busy then Config.draw s.draws else (Claims.columns s.RK)[Fin.ofNat 4 ((off - 0x70) / 4)])
  else 0x00000000

/-- R72: an admitted read returns the value of the table and changes nothing of the block; a `draw()` is used up, so
the next one is fresh (R257). -/
def Obligations.HostReadReturnsTheTable : Prop :=
  ∀ (s : State) (off : Nat) (rest : List Event),
    s.resetLine = false → s.agenda = .read off 4 :: rest → off % 4 = 0 → off ≤ 0x7C →
    step s = .next
      { s with agenda := rest, readData := some (Claims.busReadTable s off),
               draws := if s.busy = true ∧ (off = 0x10 ∨ 0x50 ≤ off) then s.draws + 1 else s.draws }

/-- The table of R73 for a write other than to CMD, with R24 for STATUS, R26 for CFG, R29 for KEYk, R30 for DINj. -/
def Claims.busWriteTable (s : State) (off : Nat) (v : Word32) : State :=
  if off = 0x04 then
    { s with done := s.done && !v.getLsbD 1, err := s.err && !v.getLsbD 2,
             errcode := if v.getLsbD 2 then .noError else s.errcode }
  else if off = 0x08 ∨ (0x20 ≤ off ∧ off ≤ 0x4C) then
    if s.busy then { s with err := true, errcode := if s.err then s.errcode else .busy }
    else if off = 0x08 then
      if v.extractLsb' 0 2 = s.ks then { s with ie := v.getLsbD 2 }
      else { s with ks := v.extractLsb' 0 2, ie := v.getLsbD 2, keyValid := false, nr := 0 }
    else if off ≤ 0x3C then
      { s with key := s.key.set (Fin.ofNat 8 ((off - 0x20) / 4)) v, keyValid := false, nr := 0 }
    else { s with din := s.din.set (Fin.ofNat 4 ((off - 0x40) / 4)) v }
  else s

/-- R73: what a write to each register other than CMD does, idle and busy; writes to read-only and reserved offsets
are ignored even while BUSY = 1 (R34). CMD is CmdWriteFollowsTheCheckOrder. -/
def Obligations.HostWriteFollowsTheTable : Prop :=
  ∀ (s : State) (off : Nat) (v : Word32) (rest : List Event),
    s.resetLine = false → s.agenda = .write off 4 v :: rest → off % 4 = 0 → off ≤ 0x7C → off ≠ 0x00 →
    step s = .next (Claims.busWriteTable { s with agenda := rest } off v)

/-- `e` is a host access at which the host is held: of another width or alignment, to which R74 gives no step, or
outside the window, of which R74 says only that it does not reach the block: that it holds the host is the model's choice
(log entry 8). -/
def Claims.NoStepAt (e : Event) (off width : Nat) : Prop :=
  (e = .read off width ∨ ∃ v, e = .write off width v) ∧ (off ≥ 0x80 ∨ width ≠ 4 ∨ off % 4 ≠ 0)

/-- R74: an access of another width or alignment gets no step, and one outside the window does not reach the block. The
machine stops there once no other agent has a step: nothing is pending, and only host accesses are to come. The two
stops, and that an access outside the window holds the host, are the model's choice (log entries 7 and 8). -/
def Obligations.OtherAccessesGetNoStep : Prop :=
  ∀ (s : State) (e : Event) (off width : Nat) (later : List Event),
    s.agenda = e :: later → Claims.NoStepAt e off width → (∀ f ∈ later, f.isHost = true) → s.busy = false →
    step s = if off ≥ 0x80 then .refused .outsideWindow else .fault .stuckAccess

/-- R74, R98 and R252: a host that is stuck at an access stops no other agent. The first event of the engine or of the
reset input happens as if it came first, the accesses before it never happen, and with none to come the engine still
completes the pending command (log entry 7). For an access of another width or alignment that the host is stuck is
R74's; for one outside the window, which R74 says only does not reach the block, it is the model's choice (log entry 8).
The agenda is log entry 2. -/
def Obligations.StuckHostLeavesTheOthersRunning : Prop :=
  ∀ (s : State) (e : Event) (off width : Nat), Claims.NoStepAt e off width →
    (∀ (before after : List Event) (f : Event), s.agenda = e :: (before ++ f :: after) →
      (∀ g ∈ before, g.isHost = true) → f.isHost = false →
      step s = step { s with agenda := f :: e :: (before ++ after) }) ∧
    (∀ (later : List Event) (i : Instr), s.agenda = e :: later → (∀ g ∈ later, g.isHost = true) →
      s.busy = true → s.pend = some i → step s = exec i s)

/-- R258: a KEY write, and a CFG write that changes KS, make the key invalid at once, so that every command that reads
round keys fails with KEY_NOT_READY; `S`, `RK`, DIN and DOUT survive. A CFG write that keeps KS keeps the key. -/
def Obligations.KeyChangeInvalidatesTheKey : Prop :=
  ∀ (s : State) (off : Nat) (v : Word32) (rest : List Event),
    s.busy = false → s.resetLine = false → s.agenda = .write off 4 v :: rest → off % 4 = 0 →
    ((0x20 ≤ off ∧ off ≤ 0x3C) ∨ (off = 0x08 ∧ v.extractLsb' 0 2 ≠ s.ks) →
      ∃ t, step s = .next t ∧ t.keyValid = false ∧ t.nr = 0 ∧ t.S = s.S ∧ t.RK = s.RK ∧ t.din = s.din ∧
        t.dout = s.dout ∧ ∀ i, Claims.readsRoundKeys i = true → exec i t = Claims.Failed .keyNotReady t) ∧
    (off = 0x08 → v.extractLsb' 0 2 = s.ks → ∃ t, step s = .next t ∧ t.keyValid = s.keyValid ∧ t.nr = s.nr)

/-- R255: no event that happens, but a completion and a reset, disturbs a pending command or anything it reads or
writes. -/
def Obligations.PendingCommandIsUndisturbed : Prop :=
  ∀ (s t : State) (e : Event),
    s.busy = true → (nextEvent s.agenda).1 = some e → e ≠ .engine → e ≠ .resetAssert → step s = .next t →
    t.busy = true ∧ t.pend = s.pend ∧ t.ks = s.ks ∧ t.ie = s.ie ∧ t.key = s.key ∧ t.din = s.din ∧ t.dout = s.dout ∧
    t.S = s.S ∧ t.RK = s.RK ∧ t.W = s.W ∧ t.gfres = s.gfres ∧ t.keyValid = s.keyValid ∧ t.nr = s.nr

/-- The step completes command `i`. -/
def Claims.Completes (s : State) (i : Instr) : Prop :=
  s.busy = true ∧ s.pend = some i ∧ ((nextEvent s.agenda).1 = none ∨ (nextEvent s.agenda).1 = some .engine)

/-- The step is a reset. -/
def Claims.Resets (s : State) : Prop := (nextEvent s.agenda).1 = some .resetAssert

/-- Each result register has only the writers the spec names, over every step: GFRES (R28), `W` and a newly valid key
(R36, R37), DOUT (R31), `RK` (R44) and `S` (R35). A reset is the one other event that changes them. -/
def Obligations.ResultRegistersHaveOnlyTheirWriters : Prop :=
  ∀ s t : State, step s = .next t → ¬ Claims.Resets s →
    (t.gfres ≠ s.gfres → ∃ i, Claims.Completes s i ∧
      ((∃ a b, i = .gfmul a b) ∨ (∃ a, i = .gfdbl a ∨ i = .sbox a ∨ i = .isbox a))) ∧
    (t.W ≠ s.W ∨ (t.keyValid = true ∧ s.keyValid = false) → Claims.Completes s .expand) ∧
    (t.dout ≠ s.dout → ∃ i, Claims.Completes s i ∧ (i = .stst ∨ i = .encb ∨ i = .decb)) ∧
    (t.RK ≠ s.RK → ∃ i, Claims.Completes s i ∧ Claims.readsRoundKeys i = true) ∧
    (t.S ≠ s.S → ∃ i, Claims.Completes s i ∧
      (i = .ldst ∨ i = .encb ∨ i = .decb ∨ i = .sub ∨ i = .isub ∨ i = .shr ∨ i = .ishr ∨ i = .mix ∨ i = .imix ∨
        ∃ rnd, i = .rnde rnd ∨ i = .rndd rnd ∨ i = .ark rnd))

/-! ### Reset and the interrupt (70_reset_and_hazards.md, 60_exceptions.md) -/

/-- R250: asserting reset gives every piece of the block's state its reset value in one step, `W` an unspecified one,
and drops the pending command; while it is asserted no host access is admitted. What the model keeps beside the block
(the events to come, the host's last value, the count of draws, the level of the input) is log entries 4, 6 and 9. -/
def Obligations.ResetDiscardsThePendingCommand : Prop :=
  (∀ (s : State) (rest : List Event), s.agenda = .resetAssert :: rest →
    ∃ W' : Vector Quad 60, step s = .next
      { State.reset with W := W', resetLine := true, agenda := rest, readData := s.readData, draws := s.draws + 60 }) ∧
  (∀ (s : State) (off : Nat) (v : Word32) (rest : List Event), s.resetLine = true → off % 4 = 0 → off ≤ 0x7C →
    (s.agenda = .read off 4 :: rest ∨ s.agenda = .write off 4 v :: rest) →
    step s = .refused .accessDuringReset)

/-- R43: the reset value of every piece of state the spec gives one, and the constant ID. -/
def Obligations.ResetStateHoldsTheResetValues : Prop :=
  statusWord State.reset = 0 ∧ cfgWord State.reset = 0 ∧ State.reset.gfres = 0 ∧
  (∀ k : Fin 8, State.reset.key[k] = 0) ∧ (∀ j : Fin 4, State.reset.din[j] = 0 ∧ State.reset.dout[j] = 0) ∧
  (∀ r c : Fin 4, State.reset.S[r][c] = 0 ∧ State.reset.RK[r][c] = 0) ∧
  State.reset.pend = none ∧ irq State.reset = false ∧
  readRegister .id State.reset = 0x41455301

/-- R39 and R226: when `irq` is 1, and the two ways it is cleared. -/
def Obligations.InterruptIsDoneOrErrWhenEnabled : Prop :=
  ∀ s : State,
    (irq s = true ↔ s.ie = true ∧ (s.done = true ∨ s.err = true)) ∧
    (∀ (v : Word32) (rest : List Event), s.resetLine = false → s.agenda = .write 0x04 4 v :: rest →
      v.getLsbD 1 = true → v.getLsbD 2 = true → ∃ t, step s = .next t ∧ irq t = false) ∧
    (∀ (i : Instr) (t : State), s.busy = false → exec i s = .next t → t.busy = true →
      t.done = false ∧ (s.err = false → irq t = false))

/-! ### Invariants and progress -/

/-- The invariant holds after reset. -/
def Obligations.InvariantHoldsAtReset : Prop := Invariant State.reset

/-- Every step keeps the invariant: PEND valid exactly with BUSY, its command still passing its checks, ERRCODE 0
exactly with ERR 0, NR 0 without a valid key, and a valid key always the expansion of the present KEY and KS. -/
def Obligations.EveryStepKeepsTheInvariant : Prop := ∀ s t : State, Invariant s → step s = .next t → Invariant t

/-- R98: a completion never raises an error, and it ends with BUSY 0, DONE 1 and PEND empty. -/
def Obligations.CompletionNeverFails : Prop :=
  ∀ (s : State) (i : Instr) (rest : List Event), s.busy = true → s.pend = some i → s.agenda = .engine :: rest →
    ∃ t, step s = .next t ∧ t.busy = false ∧ t.done = true ∧ t.pend = none ∧ t.err = s.err ∧ t.errcode = s.errcode ∧
      t.agenda = rest

/-- The machine stops at no event the spec admits. -/
def Obligations.AdmittedEventsNeverStop : Prop :=
  ∀ s : State, Invariant s → (∀ e, s.agenda.head? = some e → Admitted s e) → ∃ t, step s = .next t

/-- R252: the completion of a pending command always comes, whatever events are still to come, a host access without a
step among them: within as many steps as there are events, and one, the block is idle, with DONE 1 and PEND empty unless
reset is asserted before. -/
def Obligations.CompletionAlwaysComes : Prop :=
  ∀ s : State, Invariant s → s.busy = true →
    ∃ n t, n ≤ s.agenda.length + 1 ∧ core.run n s = .next t ∧ t.busy = false ∧ t.pend = none ∧
      (Event.resetAssert ∉ s.agenda → t.done = true)

/-- R101 and R252: `WAIT` ends, whatever the number of polls before the completion, with BUSY read as 0 and DONE 1. -/
def Obligations.WaitEnds : Prop :=
  ∀ (s : State) (polls : Nat), Invariant s → s.busy = true →
    ∃ t v, core.run (polls + 2) { s with agenda := HostStmt.events (.wait polls) } = .next t ∧
      t.busy = false ∧ t.done = true ∧ t.readData = some v ∧ v.getLsbD 0 = false ∧ t.agenda = []

/-- R259: `CMD c ; WAIT` on an idle block ends with BUSY read as 0 and DONE 1, whether `c` completed or failed at
acceptance; no error stands that did not stand before unless `c` failed. -/
def Obligations.CommandAndWaitEndWithDone : Prop :=
  ∀ (s : State) (i : Instr) (polls : Nat), s.busy = false → s.resetLine = false → i.wf = true →
    ∃ t v, core.run (polls + 3) { s with agenda := hostProgram [.cmd i, .wait polls] } = .next t ∧
      t.agenda = [] ∧ t.busy = false ∧ t.done = true ∧ t.readData = some v ∧ v.getLsbD 0 = false ∧ v.getLsbD 1 = true ∧
      (checkCommand i s = .noError → t.err = s.err ∧ t.errcode = s.errcode) ∧
      (checkCommand i s ≠ .noError → t.err = true ∧ t.errcode = if s.err then s.errcode else checkCommand i s)
end

