-- ==== Sys2Proof/Laws/Decode.lean ====
section
/-! SUPPORT. What a decoded word is, said once. -/

namespace Sys2Proof

/-- A row of the decoder that accepts answers its command, and the word's fixed bits are the opcode. -/
theorem decodeRow_ok {v : Word32} {F : Format} {i j : Instr} (h : decodeRow v F i = .ok j) :
    j = i ∧ v &&& F.mask = (opField v).setWidth 32 := by
  unfold decodeRow at h
  split at h
  · exact ⟨by cases h; rfl, ‹_›⟩
  · split at h <;> cases h

/-- The decoder answers only well-formed commands. -/
theorem decode_wf {v : Word32} {i : Instr} (h : decode v = .ok i) : i.wf = true := by
  unfold decode at h
  split at h <;> first
    | cases h
    | (obtain ⟨rfl, -⟩ := decodeRow_ok h
       simp [Instr.wf]
       try exact (rndField v).isLt)

/-- The fixed bits of a format hold the opcode alone exactly when the bits above OP that the format fixes are 0. -/
theorem fixedBits_iff (v : Word32) (F : Format) :
    v &&& F.mask = (opField v).setWidth 32 ↔ v &&& (F.mask &&& 0xFFFFFFC0) = 0 := by
  cases F <;> constructor <;> intro h <;> apply BitVec.eq_of_getLsbD_eq <;> intro i hi <;>
    have := congrArg (·.getLsbD i) h <;> revert this <;> interval_cases i <;> simp [Format.mask, opField]

end Sys2Proof
end

