-- ==== Sys2Proof/Laws/Gf.lean ====
section
/-! SUPPORT. The multiplication is linear: over the sum of its second operand's bits, and in its first operand. -/

namespace Sys2Proof.Machine

/-- `a` or 0, as a bit of the other operand says. -/
def select (p : Bool) (a : Byte) : Byte := if p then a else 0

@[simp] theorem select_xor (p q : Bool) (a : Byte) : select (p ^^ q) a = select p a ^^^ select q a := by
  cases p <;> cases q <;> simp [select]

/-- Doubling as a shift and a reduction. -/
theorem double_eq_sum (b : Byte) : double b = b <<< 1 ^^^ select (b.getLsbD 7) 0x1B := by
  unfold double select
  split <;> simp

/-- Doubling is linear over XOR. -/
theorem double_xor (a b : Byte) : double (a ^^^ b) = double a ^^^ double b := by
  simp only [double_eq_sum, BitVec.getLsbD_xor, BitVec.shiftLeft_xor_distrib, select_xor]
  ac_rfl

/-- The product as the sum over the bits of the second operand (R111). -/
theorem multiply_eq_sum (a b : Byte) :
    multiply a b = select (b.getLsbD 0) a ^^^ select (b.getLsbD 1) (double a)
      ^^^ select (b.getLsbD 2) (double (double a)) ^^^ select (b.getLsbD 3) (double (double (double a)))
      ^^^ select (b.getLsbD 4) (double (double (double (double a))))
      ^^^ select (b.getLsbD 5) (double (double (double (double (double a)))))
      ^^^ select (b.getLsbD 6) (double (double (double (double (double (double a))))))
      ^^^ select (b.getLsbD 7) (double (double (double (double (double (double (double a))))))) := by
  have h : ∀ (p : Bool) (acc x : Byte), (if p then acc ^^^ x else acc) = acc ^^^ select p x := by
    intro p acc x
    cases p <;> simp [select]
  have h0 : ∀ p x, (0x00 : Byte) ^^^ select p x = select p x := fun p x => BitVec.zero_xor
  simp only [multiply, multiplyBit, List.range, List.range.loop, List.foldl, h, h0]

/-- The product distributes over XOR in its second operand. -/
theorem multiply_xor_right (a b c : Byte) : multiply a (b ^^^ c) = multiply a b ^^^ multiply a c := by
  simp only [multiply_eq_sum, BitVec.getLsbD_xor, select_xor]
  ac_rfl

/-- The product distributes over XOR in its first operand. -/
theorem multiply_xor_left (a b c : Byte) : multiply (a ^^^ b) c = multiply a c ^^^ multiply b c := by
  have h : ∀ (p : Bool) (x y : Byte), select p (x ^^^ y) = select p x ^^^ select p y := by
    intro p x y
    cases p <;> simp [select]
  simp only [multiply_eq_sum, double_xor, h]
  ac_rfl

end Sys2Proof.Machine
end

