-- ==== Sys2Proof/Laws/KeySchedule.lean ====
section
/-! SUPPORT. What the expansion loop stores, said once: word `i` of the result is the word R132 gives for it, the words
past the end are left, and expanding again changes nothing. -/

namespace Sys2Proof.Machine

/-- Reading a word of the store after writing one. -/
theorem expandedWord_set (W : Vector Quad 60) (i : Nat) (t : Quad) (j : Nat) :
    expandedWord (setExpandedWord W i t) j = if i = j ∧ j < 60 then t else expandedWord W j := by
  unfold expandedWord setExpandedWord
  rw [Vector.getElem?_setIfInBounds]
  by_cases h : i = j
  · subst h
    by_cases h2 : i < 60 <;> simp [h2]
  · simp [h]

variable (key : Vector Word32 8) (Nk : Nat)

/-- The words from `n` on are left. -/
theorem expandWords_frame : ∀ (n : Nat) (W : Vector Quad 60) (j : Nat), n ≤ j →
    expandedWord (expandWords key Nk n W) j = expandedWord W j := by
  intro n
  induction n with
  | zero => intros; rfl
  | succ n ih =>
    intro W j h
    simp only [expandWords, expandedWord_set]
    rw [if_neg (by omega), ih _ _ (by omega)]

/-- A word, once stored, stays. -/
theorem expandWords_stable (W : Vector Quad 60) (j : Nat) : ∀ d,
    expandedWord (expandWords key Nk (j + 1 + d) W) j = expandedWord (expandWords key Nk (j + 1) W) j := by
  intro d
  induction d with
  | zero => rfl
  | succ d ih =>
    show expandedWord (expandWords key Nk ((j + 1 + d) + 1) W) j = _
    rw [expandWords]
    simp only [expandedWord_set]
    rw [if_neg (by omega), ih]

/-- Word `i` of the finished store is R132's word `i`, made of the finished store. -/
theorem expandWords_word (hN : 0 < Nk) (n : Nat) (W : Vector Quad 60) (i : Nat) (hi : i < n) (hn : n ≤ 60) :
    expandedWord (expandWords key Nk n W) i = scheduleWord key Nk i (expandWords key Nk n W) := by
  have e : ∀ j, j < i → expandedWord (expandWords key Nk i W) j = expandedWord (expandWords key Nk n W) j := by
    intro j hj
    have a := expandWords_stable key Nk W j (i - (j + 1))
    have b := expandWords_stable key Nk W j (n - (j + 1))
    rw [show j + 1 + (i - (j + 1)) = i by omega] at a
    rw [show j + 1 + (n - (j + 1)) = n by omega] at b
    rw [a, b]
  have a := expandWords_stable key Nk W i (n - (i + 1))
  rw [show i + 1 + (n - (i + 1)) = n by omega] at a
  rw [a, expandWords]
  rw [expandedWord_set, if_pos ⟨rfl, by omega⟩]
  unfold scheduleWord
  split
  · rfl
  · rw [e (i - 1) (by omega), e (i - Nk) (by omega)]

/-- Expanding an expanded store again leaves it. -/
theorem expandWords_idempotent (hN : 0 < Nk) (N : Nat) (hN60 : N ≤ 60) (W : Vector Quad 60) : ∀ n, n ≤ N →
    expandWords key Nk n (expandWords key Nk N W) = expandWords key Nk N W := by
  intro n
  induction n with
  | zero => intro _; rfl
  | succ n ih =>
    intro h
    rw [expandWords, ih (by omega)]
    have := expandWords_word key Nk hN N W n (by omega) hN60
    simp only [← this]
    apply Vector.ext
    intro j hj
    simp only [setExpandedWord, Vector.getElem_setIfInBounds]
    split
    · subst_vars
      rw [expandedWord, Vector.getElem?_eq_getElem hj]
      rfl
    · rfl

end Sys2Proof.Machine
end

