-- ==== Sys2Proof/Laws/Matrix.lean ====
section
/-! SUPPORT. The entries of the matrices and words the transforms build, so that no proof unfolds a construction. -/

namespace Sys2Proof.Machine

@[simp] theorem Matrix.ofFn_entry (f : Fin 4 → Fin 4 → Byte) (r c : Nat) (hr : r < 4) (hc : c < 4) :
    (Matrix.ofFn f)[r][c] = f ⟨r, hr⟩ ⟨c, hc⟩ := by
  simp [Matrix.ofFn]

/-- Two matrices with the same entries are equal. -/
theorem Matrix.ext_entries {M N : Matrix} (h : ∀ r c : Fin 4, M[r][c] = N[r][c]) : M = N := by
  apply Vector.ext
  intro r hr
  apply Vector.ext
  intro c hc
  exact h ⟨r, hr⟩ ⟨c, hc⟩

/-- Two words with the same bytes are equal. -/
theorem Quad.ext_bytes {t u : Quad} (h : ∀ k : Fin 4, t[k] = u[k]) : t = u := by
  apply Vector.ext
  intro k hk
  exact h ⟨k, hk⟩

section Entries

variable (M K : Matrix) (r c : Nat) (hr : r < 4) (hc : c < 4)

@[simp] theorem subBytes_entry : (subBytes M)[r][c] = sbox M[r][c] := by
  simp [subBytes]

@[simp] theorem invSubBytes_entry : (invSubBytes M)[r][c] = invSbox M[r][c] := by
  simp [invSubBytes]

@[simp] theorem shiftRows_entry : (shiftRows M)[r][c] = M[r][(c + r) % 4] := by
  simp [shiftRows, Fin.val_add]

@[simp] theorem invShiftRows_entry : (invShiftRows M)[r][c] = M[r][(4 - r + c) % 4] := by
  simp [invShiftRows, Fin.sub_def]

@[simp] theorem addRoundKey_entry : (addRoundKey M K)[r][c] = M[r][c] ^^^ K[r][c] := by
  simp [addRoundKey]

@[simp] theorem roundKey_entry (W : Vector Quad 60) (rnd : Nat) :
    (roundKey W rnd)[r][c] = (expandedWord W (4 * rnd + c))[r] := by
  simp [roundKey]

/-- An entry of a mixed state, as the sum of R177. -/
theorem mixWith_entry (A : Matrix) :
    (mixWith A M)[r][c] = multiply A[r][0] M[0][c] ^^^ multiply A[r][1] M[1][c] ^^^ multiply A[r][2] M[2][c]
      ^^^ multiply A[r][3] M[3][c] := by
  simp [mixWith]

@[simp] theorem xorQuad_byte (t u : Quad) : (xorQuad t u)[r] = t[r] ^^^ u[r] := by
  simp [xorQuad]

@[simp] theorem unpack_byte (v : Word32) : (unpack v)[r] = v.extractLsb' (24 - 8 * r) 8 := by
  match r, hr with
  | 0, _ => rfl
  | 1, _ => rfl
  | 2, _ => rfl
  | 3, _ => rfl

end Entries

/-- Byte `r` of column `c` of the block in DIN is byte `r` of DINc. -/
theorem toState_blockOfRegs_entry (g : Vector Word32 4) (r c : Nat) (hr : r < 4) (hc : c < 4) :
    (toState (blockOfRegs g))[r][c] = g[c].extractLsb' (24 - 8 * r) 8 := by
  have hq : (4 * c + r) / 4 = c := by omega
  simp [toState, blockOfRegs, hq, Nat.mod_eq_of_lt hr]

/-- DOUTj as STST, ENCB and DECB write it: column `j` of the state, row 0 in bits 31:24. -/
theorem regsOfBlock_toBytes (M : Matrix) :
    regsOfBlock (toBytes M) = Vector.ofFn fun j : Fin 4 => M[0][j] ++ M[1][j] ++ M[2][j] ++ M[3][j] := by
  apply Vector.ext
  intro j hj
  have h1 : (4 * j + 1) / 4 = j := by omega
  have h2 : (4 * j + 2) / 4 = j := by omega
  have h3 : (4 * j + 3) / 4 = j := by omega
  simp [regsOfBlock, toBytes, pack, h1, h2, h3]

end Sys2Proof.Machine
end

