-- ==== Sys2Proof/Laws/Operands.lean ====
section
/-! SUPPORT. Packing four bytes into a register and taking them out again. -/

namespace Sys2Proof.Machine

/-- A packed register as a number. -/
theorem append_toNat (a b c d : Byte) : (a ++ b ++ c ++ d : BitVec 32).toNat =
    a.toNat * 16777216 + b.toNat * 65536 + c.toNat * 256 + d.toNat := by
  have hb := b.isLt
  have hc := c.isLt
  have hd := d.isLt
  rw [BitVec.toNat_append, BitVec.toNat_append, BitVec.toNat_append, ← Nat.shiftLeft_add_eq_or_of_lt hb,
    ← Nat.shiftLeft_add_eq_or_of_lt hc, ← Nat.shiftLeft_add_eq_or_of_lt hd]
  simp only [Nat.shiftLeft_eq]
  omega

/-- A byte of a register, as a number. -/
theorem extract_byte {v : Word32} {k m : Nat} {x : Byte} (hm : m = 2 ^ k) (h : v.toNat / m % 256 = x.toNat) :
    v.extractLsb' k 8 = x := by
  apply BitVec.eq_of_toNat_eq
  rw [BitVec.extractLsb'_toNat, Nat.shiftRight_eq_div_pow, ← hm]
  exact h

/-- The base-256 digits of a number. -/
theorem digits {n a b c d : Nat} (ha : a < 256) (hb : b < 256) (hc : c < 256) (hd : d < 256)
    (h : n = a * 16777216 + b * 65536 + c * 256 + d) :
    n / 16777216 % 256 = a ∧ n / 65536 % 256 = b ∧ n / 256 % 256 = c ∧ n / 1 % 256 = d := by
  omega

/-- The bytes of a register whose number is that of four packed bytes. -/
theorem unpack_of_toNat {v : Word32} {a b c d : Byte}
    (h : v.toNat = a.toNat * 16777216 + b.toNat * 65536 + c.toNat * 256 + d.toNat) : unpack v = #v[a, b, c, d] := by
  have ha : a.toNat < 256 := a.isLt
  have hb : b.toNat < 256 := b.isLt
  have hc : c.toNat < 256 := c.isLt
  have hd : d.toNat < 256 := d.isLt
  obtain ⟨e3, e2, e1, e0⟩ := digits ha hb hc hd h
  obtain rfl := extract_byte (k := 24) (by norm_num) e3
  obtain rfl := extract_byte (k := 16) (by norm_num) e2
  obtain rfl := extract_byte (k := 8) (by norm_num) e1
  obtain rfl := extract_byte (k := 0) (by norm_num) e0
  rfl

/-- The bytes packed come out again, in their places. -/
theorem unpack_pack (t : Quad) : unpack (pack t) = t := by
  have h : unpack (pack t) = #v[t[0], t[1], t[2], t[3]] := unpack_of_toNat (append_toNat t[0] t[1] t[2] t[3])
  rw [h]
  apply Vector.ext
  intro i hi
  interval_cases i <;> rfl

/-- The register's bytes packed again are the register. -/
theorem pack_unpack (v : Word32) : pack (unpack v) = v := by
  apply BitVec.eq_of_toNat_eq
  have := v.isLt
  show (v.extractLsb' 24 8 ++ v.extractLsb' 16 8 ++ v.extractLsb' 8 8 ++ v.extractLsb' 0 8 : BitVec 32).toNat = _
  rw [append_toNat]
  simp only [BitVec.extractLsb'_toNat, Nat.shiftRight_eq_div_pow]
  omega

end Sys2Proof.Machine
end

