-- ==== Sys2Proof/Laws/PerInstr.lean ====
section
/-! SUPPORT. Statements made for every command, one lemma per constructor. `EncodeFixedBits`: the word of a command holds
its opcode and nothing else in the bits its format fixes (30_encoding.md R91, R99). -/

namespace Sys2Proof.Laws

/-- The bits that the format of `i` fixes hold the opcode of `i` in the word of `i`. -/
def EncodeFixedBits.Statement (i : Instr) : Prop :=
  i.wf = true → encode i &&& i.format.mask = i.opcode.setWidth 32

/-- The fixed bits of a word assembled without operands. -/
theorem fixedBits_none (op : BitVec 6) : assembleFields op 0 0 0 &&& Format.f0.mask = op.setWidth 32 := by
  apply BitVec.eq_of_getLsbD_eq
  intro i hi
  interval_cases i <;> simp [assembleFields, Format.mask]

/-- The fixed bits of a word assembled with a round index. -/
theorem fixedBits_round (op : BitVec 6) (rnd : BitVec 4) :
    assembleFields op rnd 0 0 &&& Format.fr.mask = op.setWidth 32 := by
  apply BitVec.eq_of_getLsbD_eq
  intro i hi
  interval_cases i <;> simp [assembleFields, Format.mask]

/-- The fixed bits of a word assembled with one byte. -/
theorem fixedBits_byte (op : BitVec 6) (a : Byte) :
    assembleFields op 0 a 0 &&& Format.fa.mask = op.setWidth 32 := by
  apply BitVec.eq_of_getLsbD_eq
  intro i hi
  interval_cases i <;> simp [assembleFields, Format.mask]

/-- The fixed bits of a word assembled with two bytes. -/
theorem fixedBits_bytes (op : BitVec 6) (a b : Byte) :
    assembleFields op 0 a b &&& Format.fab.mask = op.setWidth 32 := by
  apply BitVec.eq_of_getLsbD_eq
  intro i hi
  interval_cases i <;> simp [assembleFields, Format.mask]

theorem EncodeFixedBits.nop : EncodeFixedBits.Statement .nop := fun _ => fixedBits_none _
theorem EncodeFixedBits.ldst : EncodeFixedBits.Statement .ldst := fun _ => fixedBits_none _
theorem EncodeFixedBits.stst : EncodeFixedBits.Statement .stst := fun _ => fixedBits_none _
theorem EncodeFixedBits.expand : EncodeFixedBits.Statement .expand := fun _ => fixedBits_none _
theorem EncodeFixedBits.encb : EncodeFixedBits.Statement .encb := fun _ => fixedBits_none _
theorem EncodeFixedBits.decb : EncodeFixedBits.Statement .decb := fun _ => fixedBits_none _
theorem EncodeFixedBits.rnde (rnd : Nat) : EncodeFixedBits.Statement (.rnde rnd) := fun _ => fixedBits_round _ _
theorem EncodeFixedBits.rndd (rnd : Nat) : EncodeFixedBits.Statement (.rndd rnd) := fun _ => fixedBits_round _ _
theorem EncodeFixedBits.sub : EncodeFixedBits.Statement .sub := fun _ => fixedBits_none _
theorem EncodeFixedBits.isub : EncodeFixedBits.Statement .isub := fun _ => fixedBits_none _
theorem EncodeFixedBits.shr : EncodeFixedBits.Statement .shr := fun _ => fixedBits_none _
theorem EncodeFixedBits.ishr : EncodeFixedBits.Statement .ishr := fun _ => fixedBits_none _
theorem EncodeFixedBits.mix : EncodeFixedBits.Statement .mix := fun _ => fixedBits_none _
theorem EncodeFixedBits.imix : EncodeFixedBits.Statement .imix := fun _ => fixedBits_none _
theorem EncodeFixedBits.ark (rnd : Nat) : EncodeFixedBits.Statement (.ark rnd) := fun _ => fixedBits_round _ _
theorem EncodeFixedBits.ldrk (rnd : Nat) : EncodeFixedBits.Statement (.ldrk rnd) := fun _ => fixedBits_round _ _
theorem EncodeFixedBits.gfmul (a b : Byte) : EncodeFixedBits.Statement (.gfmul a b) := fun _ => fixedBits_bytes _ _ _
theorem EncodeFixedBits.gfdbl (a : Byte) : EncodeFixedBits.Statement (.gfdbl a) := fun _ => fixedBits_byte _ _
theorem EncodeFixedBits.sbox (a : Byte) : EncodeFixedBits.Statement (.sbox a) := fun _ => fixedBits_byte _ _
theorem EncodeFixedBits.isbox (a : Byte) : EncodeFixedBits.Statement (.isbox a) := fun _ => fixedBits_byte _ _

end Sys2Proof.Laws
end

