-- ==== Sys2Proof/Laws/State.lean ====
section
/-! SUPPORT. The fields of the state after each named update: one lemma per field per update. -/

namespace Sys2Proof.Machine

variable (s : State)


@[simp] theorem setGfres_busy (v : Byte) : (setGfres v s).busy = s.busy := rfl
@[simp] theorem setGfres_done (v : Byte) : (setGfres v s).done = s.done := rfl
@[simp] theorem setGfres_err (v : Byte) : (setGfres v s).err = s.err := rfl
@[simp] theorem setGfres_errcode (v : Byte) : (setGfres v s).errcode = s.errcode := rfl
@[simp] theorem setGfres_keyValid (v : Byte) : (setGfres v s).keyValid = s.keyValid := rfl
@[simp] theorem setGfres_nr (v : Byte) : (setGfres v s).nr = s.nr := rfl
@[simp] theorem setGfres_ks (v : Byte) : (setGfres v s).ks = s.ks := rfl
@[simp] theorem setGfres_ie (v : Byte) : (setGfres v s).ie = s.ie := rfl
@[simp] theorem setGfres_gfres (v : Byte) : (setGfres v s).gfres = v := rfl
@[simp] theorem setGfres_key (v : Byte) : (setGfres v s).key = s.key := rfl
@[simp] theorem setGfres_din (v : Byte) : (setGfres v s).din = s.din := rfl
@[simp] theorem setGfres_dout (v : Byte) : (setGfres v s).dout = s.dout := rfl
@[simp] theorem setGfres_S (v : Byte) : (setGfres v s).S = s.S := rfl
@[simp] theorem setGfres_RK (v : Byte) : (setGfres v s).RK = s.RK := rfl
@[simp] theorem setGfres_W (v : Byte) : (setGfres v s).W = s.W := rfl
@[simp] theorem setGfres_pend (v : Byte) : (setGfres v s).pend = s.pend := rfl
@[simp] theorem setGfres_resetLine (v : Byte) : (setGfres v s).resetLine = s.resetLine := rfl
@[simp] theorem setGfres_agenda (v : Byte) : (setGfres v s).agenda = s.agenda := rfl
@[simp] theorem setGfres_readData (v : Byte) : (setGfres v s).readData = s.readData := rfl
@[simp] theorem setGfres_draws (v : Byte) : (setGfres v s).draws = s.draws := rfl

@[simp] theorem setS_busy (M : Matrix) : (setS M s).busy = s.busy := rfl
@[simp] theorem setS_done (M : Matrix) : (setS M s).done = s.done := rfl
@[simp] theorem setS_err (M : Matrix) : (setS M s).err = s.err := rfl
@[simp] theorem setS_errcode (M : Matrix) : (setS M s).errcode = s.errcode := rfl
@[simp] theorem setS_keyValid (M : Matrix) : (setS M s).keyValid = s.keyValid := rfl
@[simp] theorem setS_nr (M : Matrix) : (setS M s).nr = s.nr := rfl
@[simp] theorem setS_ks (M : Matrix) : (setS M s).ks = s.ks := rfl
@[simp] theorem setS_ie (M : Matrix) : (setS M s).ie = s.ie := rfl
@[simp] theorem setS_gfres (M : Matrix) : (setS M s).gfres = s.gfres := rfl
@[simp] theorem setS_key (M : Matrix) : (setS M s).key = s.key := rfl
@[simp] theorem setS_din (M : Matrix) : (setS M s).din = s.din := rfl
@[simp] theorem setS_dout (M : Matrix) : (setS M s).dout = s.dout := rfl
@[simp] theorem setS_S (M : Matrix) : (setS M s).S = M := rfl
@[simp] theorem setS_RK (M : Matrix) : (setS M s).RK = s.RK := rfl
@[simp] theorem setS_W (M : Matrix) : (setS M s).W = s.W := rfl
@[simp] theorem setS_pend (M : Matrix) : (setS M s).pend = s.pend := rfl
@[simp] theorem setS_resetLine (M : Matrix) : (setS M s).resetLine = s.resetLine := rfl
@[simp] theorem setS_agenda (M : Matrix) : (setS M s).agenda = s.agenda := rfl
@[simp] theorem setS_readData (M : Matrix) : (setS M s).readData = s.readData := rfl
@[simp] theorem setS_draws (M : Matrix) : (setS M s).draws = s.draws := rfl

@[simp] theorem setRK_busy (M : Matrix) : (setRK M s).busy = s.busy := rfl
@[simp] theorem setRK_done (M : Matrix) : (setRK M s).done = s.done := rfl
@[simp] theorem setRK_err (M : Matrix) : (setRK M s).err = s.err := rfl
@[simp] theorem setRK_errcode (M : Matrix) : (setRK M s).errcode = s.errcode := rfl
@[simp] theorem setRK_keyValid (M : Matrix) : (setRK M s).keyValid = s.keyValid := rfl
@[simp] theorem setRK_nr (M : Matrix) : (setRK M s).nr = s.nr := rfl
@[simp] theorem setRK_ks (M : Matrix) : (setRK M s).ks = s.ks := rfl
@[simp] theorem setRK_ie (M : Matrix) : (setRK M s).ie = s.ie := rfl
@[simp] theorem setRK_gfres (M : Matrix) : (setRK M s).gfres = s.gfres := rfl
@[simp] theorem setRK_key (M : Matrix) : (setRK M s).key = s.key := rfl
@[simp] theorem setRK_din (M : Matrix) : (setRK M s).din = s.din := rfl
@[simp] theorem setRK_dout (M : Matrix) : (setRK M s).dout = s.dout := rfl
@[simp] theorem setRK_S (M : Matrix) : (setRK M s).S = s.S := rfl
@[simp] theorem setRK_RK (M : Matrix) : (setRK M s).RK = M := rfl
@[simp] theorem setRK_W (M : Matrix) : (setRK M s).W = s.W := rfl
@[simp] theorem setRK_pend (M : Matrix) : (setRK M s).pend = s.pend := rfl
@[simp] theorem setRK_resetLine (M : Matrix) : (setRK M s).resetLine = s.resetLine := rfl
@[simp] theorem setRK_agenda (M : Matrix) : (setRK M s).agenda = s.agenda := rfl
@[simp] theorem setRK_readData (M : Matrix) : (setRK M s).readData = s.readData := rfl
@[simp] theorem setRK_draws (M : Matrix) : (setRK M s).draws = s.draws := rfl

@[simp] theorem setDout_busy (g : Vector Word32 4) : (setDout g s).busy = s.busy := rfl
@[simp] theorem setDout_done (g : Vector Word32 4) : (setDout g s).done = s.done := rfl
@[simp] theorem setDout_err (g : Vector Word32 4) : (setDout g s).err = s.err := rfl
@[simp] theorem setDout_errcode (g : Vector Word32 4) : (setDout g s).errcode = s.errcode := rfl
@[simp] theorem setDout_keyValid (g : Vector Word32 4) : (setDout g s).keyValid = s.keyValid := rfl
@[simp] theorem setDout_nr (g : Vector Word32 4) : (setDout g s).nr = s.nr := rfl
@[simp] theorem setDout_ks (g : Vector Word32 4) : (setDout g s).ks = s.ks := rfl
@[simp] theorem setDout_ie (g : Vector Word32 4) : (setDout g s).ie = s.ie := rfl
@[simp] theorem setDout_gfres (g : Vector Word32 4) : (setDout g s).gfres = s.gfres := rfl
@[simp] theorem setDout_key (g : Vector Word32 4) : (setDout g s).key = s.key := rfl
@[simp] theorem setDout_din (g : Vector Word32 4) : (setDout g s).din = s.din := rfl
@[simp] theorem setDout_dout (g : Vector Word32 4) : (setDout g s).dout = g := rfl
@[simp] theorem setDout_S (g : Vector Word32 4) : (setDout g s).S = s.S := rfl
@[simp] theorem setDout_RK (g : Vector Word32 4) : (setDout g s).RK = s.RK := rfl
@[simp] theorem setDout_W (g : Vector Word32 4) : (setDout g s).W = s.W := rfl
@[simp] theorem setDout_pend (g : Vector Word32 4) : (setDout g s).pend = s.pend := rfl
@[simp] theorem setDout_resetLine (g : Vector Word32 4) : (setDout g s).resetLine = s.resetLine := rfl
@[simp] theorem setDout_agenda (g : Vector Word32 4) : (setDout g s).agenda = s.agenda := rfl
@[simp] theorem setDout_readData (g : Vector Word32 4) : (setDout g s).readData = s.readData := rfl
@[simp] theorem setDout_draws (g : Vector Word32 4) : (setDout g s).draws = s.draws := rfl

@[simp] theorem setSchedule_busy (W' : Vector Quad 60) (n : BitVec 4) : (setSchedule W' n s).busy = s.busy := rfl
@[simp] theorem setSchedule_done (W' : Vector Quad 60) (n : BitVec 4) : (setSchedule W' n s).done = s.done := rfl
@[simp] theorem setSchedule_err (W' : Vector Quad 60) (n : BitVec 4) : (setSchedule W' n s).err = s.err := rfl
@[simp] theorem setSchedule_errcode (W' : Vector Quad 60) (n : BitVec 4) : (setSchedule W' n s).errcode = s.errcode := rfl
@[simp] theorem setSchedule_keyValid (W' : Vector Quad 60) (n : BitVec 4) : (setSchedule W' n s).keyValid = true := rfl
@[simp] theorem setSchedule_nr (W' : Vector Quad 60) (n : BitVec 4) : (setSchedule W' n s).nr = n := rfl
@[simp] theorem setSchedule_ks (W' : Vector Quad 60) (n : BitVec 4) : (setSchedule W' n s).ks = s.ks := rfl
@[simp] theorem setSchedule_ie (W' : Vector Quad 60) (n : BitVec 4) : (setSchedule W' n s).ie = s.ie := rfl
@[simp] theorem setSchedule_gfres (W' : Vector Quad 60) (n : BitVec 4) : (setSchedule W' n s).gfres = s.gfres := rfl
@[simp] theorem setSchedule_key (W' : Vector Quad 60) (n : BitVec 4) : (setSchedule W' n s).key = s.key := rfl
@[simp] theorem setSchedule_din (W' : Vector Quad 60) (n : BitVec 4) : (setSchedule W' n s).din = s.din := rfl
@[simp] theorem setSchedule_dout (W' : Vector Quad 60) (n : BitVec 4) : (setSchedule W' n s).dout = s.dout := rfl
@[simp] theorem setSchedule_S (W' : Vector Quad 60) (n : BitVec 4) : (setSchedule W' n s).S = s.S := rfl
@[simp] theorem setSchedule_RK (W' : Vector Quad 60) (n : BitVec 4) : (setSchedule W' n s).RK = s.RK := rfl
@[simp] theorem setSchedule_W (W' : Vector Quad 60) (n : BitVec 4) : (setSchedule W' n s).W = W' := rfl
@[simp] theorem setSchedule_pend (W' : Vector Quad 60) (n : BitVec 4) : (setSchedule W' n s).pend = s.pend := rfl
@[simp] theorem setSchedule_resetLine (W' : Vector Quad 60) (n : BitVec 4) : (setSchedule W' n s).resetLine = s.resetLine := rfl
@[simp] theorem setSchedule_agenda (W' : Vector Quad 60) (n : BitVec 4) : (setSchedule W' n s).agenda = s.agenda := rfl
@[simp] theorem setSchedule_readData (W' : Vector Quad 60) (n : BitVec 4) : (setSchedule W' n s).readData = s.readData := rfl
@[simp] theorem setSchedule_draws (W' : Vector Quad 60) (n : BitVec 4) : (setSchedule W' n s).draws = s.draws := rfl

@[simp] theorem raiseError_busy (c : ErrorCode) : (raiseError c s).busy = s.busy := rfl
@[simp] theorem raiseError_done (c : ErrorCode) : (raiseError c s).done = s.done := rfl
@[simp] theorem raiseError_err (c : ErrorCode) : (raiseError c s).err = true := rfl
@[simp] theorem raiseError_errcode (c : ErrorCode) : (raiseError c s).errcode = (if s.err then s.errcode else c) := rfl
@[simp] theorem raiseError_keyValid (c : ErrorCode) : (raiseError c s).keyValid = s.keyValid := rfl
@[simp] theorem raiseError_nr (c : ErrorCode) : (raiseError c s).nr = s.nr := rfl
@[simp] theorem raiseError_ks (c : ErrorCode) : (raiseError c s).ks = s.ks := rfl
@[simp] theorem raiseError_ie (c : ErrorCode) : (raiseError c s).ie = s.ie := rfl
@[simp] theorem raiseError_gfres (c : ErrorCode) : (raiseError c s).gfres = s.gfres := rfl
@[simp] theorem raiseError_key (c : ErrorCode) : (raiseError c s).key = s.key := rfl
@[simp] theorem raiseError_din (c : ErrorCode) : (raiseError c s).din = s.din := rfl
@[simp] theorem raiseError_dout (c : ErrorCode) : (raiseError c s).dout = s.dout := rfl
@[simp] theorem raiseError_S (c : ErrorCode) : (raiseError c s).S = s.S := rfl
@[simp] theorem raiseError_RK (c : ErrorCode) : (raiseError c s).RK = s.RK := rfl
@[simp] theorem raiseError_W (c : ErrorCode) : (raiseError c s).W = s.W := rfl
@[simp] theorem raiseError_pend (c : ErrorCode) : (raiseError c s).pend = s.pend := rfl
@[simp] theorem raiseError_resetLine (c : ErrorCode) : (raiseError c s).resetLine = s.resetLine := rfl
@[simp] theorem raiseError_agenda (c : ErrorCode) : (raiseError c s).agenda = s.agenda := rfl
@[simp] theorem raiseError_readData (c : ErrorCode) : (raiseError c s).readData = s.readData := rfl
@[simp] theorem raiseError_draws (c : ErrorCode) : (raiseError c s).draws = s.draws := rfl

@[simp] theorem writeStatus_busy (v : Word32) : (writeStatus v s).busy = s.busy := rfl
@[simp] theorem writeStatus_done (v : Word32) : (writeStatus v s).done = (if v.getLsbD 1 then false else s.done) := rfl
@[simp] theorem writeStatus_err (v : Word32) : (writeStatus v s).err = (if v.getLsbD 2 then false else s.err) := rfl
@[simp] theorem writeStatus_errcode (v : Word32) : (writeStatus v s).errcode = (if v.getLsbD 2 then .noError else s.errcode) := rfl
@[simp] theorem writeStatus_keyValid (v : Word32) : (writeStatus v s).keyValid = s.keyValid := rfl
@[simp] theorem writeStatus_nr (v : Word32) : (writeStatus v s).nr = s.nr := rfl
@[simp] theorem writeStatus_ks (v : Word32) : (writeStatus v s).ks = s.ks := rfl
@[simp] theorem writeStatus_ie (v : Word32) : (writeStatus v s).ie = s.ie := rfl
@[simp] theorem writeStatus_gfres (v : Word32) : (writeStatus v s).gfres = s.gfres := rfl
@[simp] theorem writeStatus_key (v : Word32) : (writeStatus v s).key = s.key := rfl
@[simp] theorem writeStatus_din (v : Word32) : (writeStatus v s).din = s.din := rfl
@[simp] theorem writeStatus_dout (v : Word32) : (writeStatus v s).dout = s.dout := rfl
@[simp] theorem writeStatus_S (v : Word32) : (writeStatus v s).S = s.S := rfl
@[simp] theorem writeStatus_RK (v : Word32) : (writeStatus v s).RK = s.RK := rfl
@[simp] theorem writeStatus_W (v : Word32) : (writeStatus v s).W = s.W := rfl
@[simp] theorem writeStatus_pend (v : Word32) : (writeStatus v s).pend = s.pend := rfl
@[simp] theorem writeStatus_resetLine (v : Word32) : (writeStatus v s).resetLine = s.resetLine := rfl
@[simp] theorem writeStatus_agenda (v : Word32) : (writeStatus v s).agenda = s.agenda := rfl
@[simp] theorem writeStatus_readData (v : Word32) : (writeStatus v s).readData = s.readData := rfl
@[simp] theorem writeStatus_draws (v : Word32) : (writeStatus v s).draws = s.draws := rfl

@[simp] theorem failCommand_busy (c : ErrorCode) : (failCommand c s).busy = s.busy := rfl
@[simp] theorem failCommand_done (c : ErrorCode) : (failCommand c s).done = true := rfl
@[simp] theorem failCommand_err (c : ErrorCode) : (failCommand c s).err = true := rfl
@[simp] theorem failCommand_errcode (c : ErrorCode) : (failCommand c s).errcode = (if s.err then s.errcode else c) := rfl
@[simp] theorem failCommand_keyValid (c : ErrorCode) : (failCommand c s).keyValid = s.keyValid := rfl
@[simp] theorem failCommand_nr (c : ErrorCode) : (failCommand c s).nr = s.nr := rfl
@[simp] theorem failCommand_ks (c : ErrorCode) : (failCommand c s).ks = s.ks := rfl
@[simp] theorem failCommand_ie (c : ErrorCode) : (failCommand c s).ie = s.ie := rfl
@[simp] theorem failCommand_gfres (c : ErrorCode) : (failCommand c s).gfres = s.gfres := rfl
@[simp] theorem failCommand_key (c : ErrorCode) : (failCommand c s).key = s.key := rfl
@[simp] theorem failCommand_din (c : ErrorCode) : (failCommand c s).din = s.din := rfl
@[simp] theorem failCommand_dout (c : ErrorCode) : (failCommand c s).dout = s.dout := rfl
@[simp] theorem failCommand_S (c : ErrorCode) : (failCommand c s).S = s.S := rfl
@[simp] theorem failCommand_RK (c : ErrorCode) : (failCommand c s).RK = s.RK := rfl
@[simp] theorem failCommand_W (c : ErrorCode) : (failCommand c s).W = s.W := rfl
@[simp] theorem failCommand_pend (c : ErrorCode) : (failCommand c s).pend = s.pend := rfl
@[simp] theorem failCommand_resetLine (c : ErrorCode) : (failCommand c s).resetLine = s.resetLine := rfl
@[simp] theorem failCommand_agenda (c : ErrorCode) : (failCommand c s).agenda = s.agenda := rfl
@[simp] theorem failCommand_readData (c : ErrorCode) : (failCommand c s).readData = s.readData := rfl
@[simp] theorem failCommand_draws (c : ErrorCode) : (failCommand c s).draws = s.draws := rfl

@[simp] theorem accept_busy (i : Instr) : (accept i s).busy = true := rfl
@[simp] theorem accept_done (i : Instr) : (accept i s).done = false := rfl
@[simp] theorem accept_err (i : Instr) : (accept i s).err = s.err := rfl
@[simp] theorem accept_errcode (i : Instr) : (accept i s).errcode = s.errcode := rfl
@[simp] theorem accept_keyValid (i : Instr) : (accept i s).keyValid = s.keyValid := rfl
@[simp] theorem accept_nr (i : Instr) : (accept i s).nr = s.nr := rfl
@[simp] theorem accept_ks (i : Instr) : (accept i s).ks = s.ks := rfl
@[simp] theorem accept_ie (i : Instr) : (accept i s).ie = s.ie := rfl
@[simp] theorem accept_gfres (i : Instr) : (accept i s).gfres = s.gfres := rfl
@[simp] theorem accept_key (i : Instr) : (accept i s).key = s.key := rfl
@[simp] theorem accept_din (i : Instr) : (accept i s).din = s.din := rfl
@[simp] theorem accept_dout (i : Instr) : (accept i s).dout = s.dout := rfl
@[simp] theorem accept_S (i : Instr) : (accept i s).S = s.S := rfl
@[simp] theorem accept_RK (i : Instr) : (accept i s).RK = s.RK := rfl
@[simp] theorem accept_W (i : Instr) : (accept i s).W = s.W := rfl
@[simp] theorem accept_pend (i : Instr) : (accept i s).pend = some i := rfl
@[simp] theorem accept_resetLine (i : Instr) : (accept i s).resetLine = s.resetLine := rfl
@[simp] theorem accept_agenda (i : Instr) : (accept i s).agenda = s.agenda := rfl
@[simp] theorem accept_readData (i : Instr) : (accept i s).readData = s.readData := rfl
@[simp] theorem accept_draws (i : Instr) : (accept i s).draws = s.draws := rfl

@[simp] theorem complete_busy : (complete s).busy = false := rfl
@[simp] theorem complete_done : (complete s).done = true := rfl
@[simp] theorem complete_err : (complete s).err = s.err := rfl
@[simp] theorem complete_errcode : (complete s).errcode = s.errcode := rfl
@[simp] theorem complete_keyValid : (complete s).keyValid = s.keyValid := rfl
@[simp] theorem complete_nr : (complete s).nr = s.nr := rfl
@[simp] theorem complete_ks : (complete s).ks = s.ks := rfl
@[simp] theorem complete_ie : (complete s).ie = s.ie := rfl
@[simp] theorem complete_gfres : (complete s).gfres = s.gfres := rfl
@[simp] theorem complete_key : (complete s).key = s.key := rfl
@[simp] theorem complete_din : (complete s).din = s.din := rfl
@[simp] theorem complete_dout : (complete s).dout = s.dout := rfl
@[simp] theorem complete_S : (complete s).S = s.S := rfl
@[simp] theorem complete_RK : (complete s).RK = s.RK := rfl
@[simp] theorem complete_W : (complete s).W = s.W := rfl
@[simp] theorem complete_pend : (complete s).pend = none := rfl
@[simp] theorem complete_resetLine : (complete s).resetLine = s.resetLine := rfl
@[simp] theorem complete_agenda : (complete s).agenda = s.agenda := rfl
@[simp] theorem complete_readData : (complete s).readData = s.readData := rfl
@[simp] theorem complete_draws : (complete s).draws = s.draws := rfl

@[simp] theorem deliverRead_busy (r : Register) : (deliverRead r s).busy = s.busy := rfl
@[simp] theorem deliverRead_done (r : Register) : (deliverRead r s).done = s.done := rfl
@[simp] theorem deliverRead_err (r : Register) : (deliverRead r s).err = s.err := rfl
@[simp] theorem deliverRead_errcode (r : Register) : (deliverRead r s).errcode = s.errcode := rfl
@[simp] theorem deliverRead_keyValid (r : Register) : (deliverRead r s).keyValid = s.keyValid := rfl
@[simp] theorem deliverRead_nr (r : Register) : (deliverRead r s).nr = s.nr := rfl
@[simp] theorem deliverRead_ks (r : Register) : (deliverRead r s).ks = s.ks := rfl
@[simp] theorem deliverRead_ie (r : Register) : (deliverRead r s).ie = s.ie := rfl
@[simp] theorem deliverRead_gfres (r : Register) : (deliverRead r s).gfres = s.gfres := rfl
@[simp] theorem deliverRead_key (r : Register) : (deliverRead r s).key = s.key := rfl
@[simp] theorem deliverRead_din (r : Register) : (deliverRead r s).din = s.din := rfl
@[simp] theorem deliverRead_dout (r : Register) : (deliverRead r s).dout = s.dout := rfl
@[simp] theorem deliverRead_S (r : Register) : (deliverRead r s).S = s.S := rfl
@[simp] theorem deliverRead_RK (r : Register) : (deliverRead r s).RK = s.RK := rfl
@[simp] theorem deliverRead_W (r : Register) : (deliverRead r s).W = s.W := rfl
@[simp] theorem deliverRead_pend (r : Register) : (deliverRead r s).pend = s.pend := rfl
@[simp] theorem deliverRead_resetLine (r : Register) : (deliverRead r s).resetLine = s.resetLine := rfl
@[simp] theorem deliverRead_agenda (r : Register) : (deliverRead r s).agenda = s.agenda := rfl
@[simp] theorem deliverRead_readData (r : Register) : (deliverRead r s).readData = some (readRegister r s) := rfl
@[simp] theorem deliverRead_draws (r : Register) : (deliverRead r s).draws = (if readDraws r s then s.draws + 1 else s.draws) := rfl

@[simp] theorem writeCfg_busy (v : Word32) : (writeCfg v s).busy = s.busy := rfl
@[simp] theorem writeCfg_done (v : Word32) : (writeCfg v s).done = s.done := rfl
@[simp] theorem writeCfg_err (v : Word32) : (writeCfg v s).err = s.err := rfl
@[simp] theorem writeCfg_errcode (v : Word32) : (writeCfg v s).errcode = s.errcode := rfl
@[simp] theorem writeCfg_keyValid (v : Word32) : (writeCfg v s).keyValid = (if v.extractLsb' 0 2 = s.ks then s.keyValid else false) := rfl
@[simp] theorem writeCfg_nr (v : Word32) : (writeCfg v s).nr = (if v.extractLsb' 0 2 = s.ks then s.nr else 0) := rfl
@[simp] theorem writeCfg_ks (v : Word32) : (writeCfg v s).ks = v.extractLsb' 0 2 := rfl
@[simp] theorem writeCfg_ie (v : Word32) : (writeCfg v s).ie = v.getLsbD 2 := rfl
@[simp] theorem writeCfg_gfres (v : Word32) : (writeCfg v s).gfres = s.gfres := rfl
@[simp] theorem writeCfg_key (v : Word32) : (writeCfg v s).key = s.key := rfl
@[simp] theorem writeCfg_din (v : Word32) : (writeCfg v s).din = s.din := rfl
@[simp] theorem writeCfg_dout (v : Word32) : (writeCfg v s).dout = s.dout := rfl
@[simp] theorem writeCfg_S (v : Word32) : (writeCfg v s).S = s.S := rfl
@[simp] theorem writeCfg_RK (v : Word32) : (writeCfg v s).RK = s.RK := rfl
@[simp] theorem writeCfg_W (v : Word32) : (writeCfg v s).W = s.W := rfl
@[simp] theorem writeCfg_pend (v : Word32) : (writeCfg v s).pend = s.pend := rfl
@[simp] theorem writeCfg_resetLine (v : Word32) : (writeCfg v s).resetLine = s.resetLine := rfl
@[simp] theorem writeCfg_agenda (v : Word32) : (writeCfg v s).agenda = s.agenda := rfl
@[simp] theorem writeCfg_readData (v : Word32) : (writeCfg v s).readData = s.readData := rfl
@[simp] theorem writeCfg_draws (v : Word32) : (writeCfg v s).draws = s.draws := rfl

@[simp] theorem writeKey_busy (k : Fin 8) (v : Word32) : (writeKey k v s).busy = s.busy := rfl
@[simp] theorem writeKey_done (k : Fin 8) (v : Word32) : (writeKey k v s).done = s.done := rfl
@[simp] theorem writeKey_err (k : Fin 8) (v : Word32) : (writeKey k v s).err = s.err := rfl
@[simp] theorem writeKey_errcode (k : Fin 8) (v : Word32) : (writeKey k v s).errcode = s.errcode := rfl
@[simp] theorem writeKey_keyValid (k : Fin 8) (v : Word32) : (writeKey k v s).keyValid = false := rfl
@[simp] theorem writeKey_nr (k : Fin 8) (v : Word32) : (writeKey k v s).nr = 0 := rfl
@[simp] theorem writeKey_ks (k : Fin 8) (v : Word32) : (writeKey k v s).ks = s.ks := rfl
@[simp] theorem writeKey_ie (k : Fin 8) (v : Word32) : (writeKey k v s).ie = s.ie := rfl
@[simp] theorem writeKey_gfres (k : Fin 8) (v : Word32) : (writeKey k v s).gfres = s.gfres := rfl
@[simp] theorem writeKey_key (k : Fin 8) (v : Word32) : (writeKey k v s).key = s.key.set k v := rfl
@[simp] theorem writeKey_din (k : Fin 8) (v : Word32) : (writeKey k v s).din = s.din := rfl
@[simp] theorem writeKey_dout (k : Fin 8) (v : Word32) : (writeKey k v s).dout = s.dout := rfl
@[simp] theorem writeKey_S (k : Fin 8) (v : Word32) : (writeKey k v s).S = s.S := rfl
@[simp] theorem writeKey_RK (k : Fin 8) (v : Word32) : (writeKey k v s).RK = s.RK := rfl
@[simp] theorem writeKey_W (k : Fin 8) (v : Word32) : (writeKey k v s).W = s.W := rfl
@[simp] theorem writeKey_pend (k : Fin 8) (v : Word32) : (writeKey k v s).pend = s.pend := rfl
@[simp] theorem writeKey_resetLine (k : Fin 8) (v : Word32) : (writeKey k v s).resetLine = s.resetLine := rfl
@[simp] theorem writeKey_agenda (k : Fin 8) (v : Word32) : (writeKey k v s).agenda = s.agenda := rfl
@[simp] theorem writeKey_readData (k : Fin 8) (v : Word32) : (writeKey k v s).readData = s.readData := rfl
@[simp] theorem writeKey_draws (k : Fin 8) (v : Word32) : (writeKey k v s).draws = s.draws := rfl

@[simp] theorem writeDin_busy (j : Fin 4) (v : Word32) : (writeDin j v s).busy = s.busy := rfl
@[simp] theorem writeDin_done (j : Fin 4) (v : Word32) : (writeDin j v s).done = s.done := rfl
@[simp] theorem writeDin_err (j : Fin 4) (v : Word32) : (writeDin j v s).err = s.err := rfl
@[simp] theorem writeDin_errcode (j : Fin 4) (v : Word32) : (writeDin j v s).errcode = s.errcode := rfl
@[simp] theorem writeDin_keyValid (j : Fin 4) (v : Word32) : (writeDin j v s).keyValid = s.keyValid := rfl
@[simp] theorem writeDin_nr (j : Fin 4) (v : Word32) : (writeDin j v s).nr = s.nr := rfl
@[simp] theorem writeDin_ks (j : Fin 4) (v : Word32) : (writeDin j v s).ks = s.ks := rfl
@[simp] theorem writeDin_ie (j : Fin 4) (v : Word32) : (writeDin j v s).ie = s.ie := rfl
@[simp] theorem writeDin_gfres (j : Fin 4) (v : Word32) : (writeDin j v s).gfres = s.gfres := rfl
@[simp] theorem writeDin_key (j : Fin 4) (v : Word32) : (writeDin j v s).key = s.key := rfl
@[simp] theorem writeDin_din (j : Fin 4) (v : Word32) : (writeDin j v s).din = s.din.set j v := rfl
@[simp] theorem writeDin_dout (j : Fin 4) (v : Word32) : (writeDin j v s).dout = s.dout := rfl
@[simp] theorem writeDin_S (j : Fin 4) (v : Word32) : (writeDin j v s).S = s.S := rfl
@[simp] theorem writeDin_RK (j : Fin 4) (v : Word32) : (writeDin j v s).RK = s.RK := rfl
@[simp] theorem writeDin_W (j : Fin 4) (v : Word32) : (writeDin j v s).W = s.W := rfl
@[simp] theorem writeDin_pend (j : Fin 4) (v : Word32) : (writeDin j v s).pend = s.pend := rfl
@[simp] theorem writeDin_resetLine (j : Fin 4) (v : Word32) : (writeDin j v s).resetLine = s.resetLine := rfl
@[simp] theorem writeDin_agenda (j : Fin 4) (v : Word32) : (writeDin j v s).agenda = s.agenda := rfl
@[simp] theorem writeDin_readData (j : Fin 4) (v : Word32) : (writeDin j v s).readData = s.readData := rfl
@[simp] theorem writeDin_draws (j : Fin 4) (v : Word32) : (writeDin j v s).draws = s.draws := rfl

@[simp] theorem assertReset_busy : (assertReset s).busy = State.reset.busy := rfl
@[simp] theorem assertReset_done : (assertReset s).done = State.reset.done := rfl
@[simp] theorem assertReset_err : (assertReset s).err = State.reset.err := rfl
@[simp] theorem assertReset_errcode : (assertReset s).errcode = State.reset.errcode := rfl
@[simp] theorem assertReset_keyValid : (assertReset s).keyValid = State.reset.keyValid := rfl
@[simp] theorem assertReset_nr : (assertReset s).nr = State.reset.nr := rfl
@[simp] theorem assertReset_ks : (assertReset s).ks = State.reset.ks := rfl
@[simp] theorem assertReset_ie : (assertReset s).ie = State.reset.ie := rfl
@[simp] theorem assertReset_gfres : (assertReset s).gfres = State.reset.gfres := rfl
@[simp] theorem assertReset_key : (assertReset s).key = State.reset.key := rfl
@[simp] theorem assertReset_din : (assertReset s).din = State.reset.din := rfl
@[simp] theorem assertReset_dout : (assertReset s).dout = State.reset.dout := rfl
@[simp] theorem assertReset_S : (assertReset s).S = State.reset.S := rfl
@[simp] theorem assertReset_RK : (assertReset s).RK = State.reset.RK := rfl
@[simp] theorem assertReset_W : (assertReset s).W = drawnSchedule s.draws := rfl
@[simp] theorem assertReset_pend : (assertReset s).pend = State.reset.pend := rfl
@[simp] theorem assertReset_resetLine : (assertReset s).resetLine = true := rfl
@[simp] theorem assertReset_agenda : (assertReset s).agenda = s.agenda := rfl
@[simp] theorem assertReset_readData : (assertReset s).readData = s.readData := rfl
@[simp] theorem assertReset_draws : (assertReset s).draws = s.draws + 60 := rfl

@[simp] theorem releaseReset_busy : (releaseReset s).busy = s.busy := rfl
@[simp] theorem releaseReset_done : (releaseReset s).done = s.done := rfl
@[simp] theorem releaseReset_err : (releaseReset s).err = s.err := rfl
@[simp] theorem releaseReset_errcode : (releaseReset s).errcode = s.errcode := rfl
@[simp] theorem releaseReset_keyValid : (releaseReset s).keyValid = s.keyValid := rfl
@[simp] theorem releaseReset_nr : (releaseReset s).nr = s.nr := rfl
@[simp] theorem releaseReset_ks : (releaseReset s).ks = s.ks := rfl
@[simp] theorem releaseReset_ie : (releaseReset s).ie = s.ie := rfl
@[simp] theorem releaseReset_gfres : (releaseReset s).gfres = s.gfres := rfl
@[simp] theorem releaseReset_key : (releaseReset s).key = s.key := rfl
@[simp] theorem releaseReset_din : (releaseReset s).din = s.din := rfl
@[simp] theorem releaseReset_dout : (releaseReset s).dout = s.dout := rfl
@[simp] theorem releaseReset_S : (releaseReset s).S = s.S := rfl
@[simp] theorem releaseReset_RK : (releaseReset s).RK = s.RK := rfl
@[simp] theorem releaseReset_W : (releaseReset s).W = s.W := rfl
@[simp] theorem releaseReset_pend : (releaseReset s).pend = s.pend := rfl
@[simp] theorem releaseReset_resetLine : (releaseReset s).resetLine = false := rfl
@[simp] theorem releaseReset_agenda : (releaseReset s).agenda = s.agenda := rfl
@[simp] theorem releaseReset_readData : (releaseReset s).readData = s.readData := rfl
@[simp] theorem releaseReset_draws : (releaseReset s).draws = s.draws := rfl

@[simp] theorem storeBlock_busy (X K : Matrix) : (storeBlock X K s).busy = s.busy := rfl
@[simp] theorem storeBlock_done (X K : Matrix) : (storeBlock X K s).done = s.done := rfl
@[simp] theorem storeBlock_err (X K : Matrix) : (storeBlock X K s).err = s.err := rfl
@[simp] theorem storeBlock_errcode (X K : Matrix) : (storeBlock X K s).errcode = s.errcode := rfl
@[simp] theorem storeBlock_keyValid (X K : Matrix) : (storeBlock X K s).keyValid = s.keyValid := rfl
@[simp] theorem storeBlock_nr (X K : Matrix) : (storeBlock X K s).nr = s.nr := rfl
@[simp] theorem storeBlock_ks (X K : Matrix) : (storeBlock X K s).ks = s.ks := rfl
@[simp] theorem storeBlock_ie (X K : Matrix) : (storeBlock X K s).ie = s.ie := rfl
@[simp] theorem storeBlock_gfres (X K : Matrix) : (storeBlock X K s).gfres = s.gfres := rfl
@[simp] theorem storeBlock_key (X K : Matrix) : (storeBlock X K s).key = s.key := rfl
@[simp] theorem storeBlock_din (X K : Matrix) : (storeBlock X K s).din = s.din := rfl
@[simp] theorem storeBlock_dout (X K : Matrix) : (storeBlock X K s).dout = regsOfBlock (toBytes X) := rfl
@[simp] theorem storeBlock_S (X K : Matrix) : (storeBlock X K s).S = X := rfl
@[simp] theorem storeBlock_RK (X K : Matrix) : (storeBlock X K s).RK = K := rfl
@[simp] theorem storeBlock_W (X K : Matrix) : (storeBlock X K s).W = s.W := rfl
@[simp] theorem storeBlock_pend (X K : Matrix) : (storeBlock X K s).pend = s.pend := rfl
@[simp] theorem storeBlock_resetLine (X K : Matrix) : (storeBlock X K s).resetLine = s.resetLine := rfl
@[simp] theorem storeBlock_agenda (X K : Matrix) : (storeBlock X K s).agenda = s.agenda := rfl
@[simp] theorem storeBlock_readData (X K : Matrix) : (storeBlock X K s).readData = s.readData := rfl
@[simp] theorem storeBlock_draws (X K : Matrix) : (storeBlock X K s).draws = s.draws := rfl

end Sys2Proof.Machine
end

