-- ==== Sys2Proof/Laws/Run.lean ====
section
/-! SUPPORT. What one command does, said once: its acceptance and its completion, and the fields its pseudocode leaves
alone. -/

namespace Sys2Proof.Machine

/-- The pseudocode of each command, as its meaning passes it to `runCommand`. -/
def effectOf : Instr → State → State
  | .nop => id
  | .ldst => fun t => setS (toState (blockOfRegs t.din)) t
  | .stst => fun t => setDout (regsOfBlock (toBytes t.S)) t
  | .expand => expandEffect
  | .encb => fun t =>
      storeBlock (encryptState t.W t.nr.toNat (toState (blockOfRegs t.din))) (roundKey t.W t.nr.toNat) t
  | .decb => fun t => storeBlock (decryptState t.W t.nr.toNat (toState (blockOfRegs t.din))) (roundKey t.W 0) t
  | .rnde rnd => fun t => setRK (roundKey t.W rnd) (setS (forwardRound t.W t.nr.toNat rnd t.S) t)
  | .rndd rnd => fun t => setRK (roundKey t.W rnd) (setS (inverseRound t.W rnd t.S) t)
  | .sub => fun t => setS (subBytes t.S) t
  | .isub => fun t => setS (invSubBytes t.S) t
  | .shr => fun t => setS (shiftRows t.S) t
  | .ishr => fun t => setS (invShiftRows t.S) t
  | .mix => fun t => setS (mixColumns t.S) t
  | .imix => fun t => setS (invMixColumns t.S) t
  | .ark rnd => fun t => setRK (roundKey t.W rnd) (setS (addRoundKey t.S (roundKey t.W rnd)) t)
  | .ldrk rnd => fun t => setRK (roundKey t.W rnd) t
  | .gfmul a b => setGfres (multiply a b)
  | .gfdbl a => setGfres (double a)
  | .sbox a => setGfres (sbox a)
  | .isbox a => setGfres (invSbox a)

/-- Every command is its acceptance or its completion. -/
theorem exec_eq_runCommand (i : Instr) (s : State) : exec i s = runCommand i (effectOf i) s := by
  cases i <;> rfl

/-- While BUSY = 1 a command completes. -/
theorem exec_busy (i : Instr) (s : State) (h : s.busy = true) : exec i s = .next (complete (effectOf i s)) := by
  simp [exec_eq_runCommand, runCommand, h]

/-- While BUSY = 0 a command is issued. -/
theorem exec_idle (i : Instr) (s : State) (h : s.busy = false) : exec i s = .next (issue i s) := by
  simp [exec_eq_runCommand, runCommand, h]

/-- No command stops the machine. -/
theorem exec_answers_next (i : Instr) (s : State) : ∃ t, exec i s = .next t := by
  cases h : s.busy
  · exact ⟨_, exec_idle i s h⟩
  · exact ⟨_, exec_busy i s h⟩

/-- A command is accepted unchanged, or fails with the code of its check. -/
theorem issue_cases (i : Instr) (s : State) :
    (checkCommand i s = .noError ∧ issue i s = accept i s) ∨
    (checkCommand i s ≠ .noError ∧ issue i s = failCommand (checkCommand i s) s) := by
  by_cases h : checkCommand i s = .noError
  · exact .inl ⟨h, by simp [issue, h]⟩
  · exact .inr ⟨h, by simp [issue, h]⟩

/-- EXPAND's pseudocode writes the store under an accepted key size, and nothing under KS = 0b11. -/
theorem expandEffect_cases (s : State) :
    (∃ Nr Nk, keySize s.ks = some (Nr, Nk) ∧
      expandEffect s = setSchedule (expandKey s.key Nr Nk s.W) (BitVec.ofNat 4 Nr) s) ∨
    (keySize s.ks = none ∧ expandEffect s = s) := by
  unfold expandEffect
  cases h : keySize s.ks with
  | none => exact .inr ⟨rfl, rfl⟩
  | some p => exact .inl ⟨p.1, p.2, rfl, rfl⟩

/-- The fields that no command's pseudocode writes. -/
theorem effectOf_frame (i : Instr) (s : State) :
    (effectOf i s).busy = s.busy ∧ (effectOf i s).done = s.done ∧ (effectOf i s).err = s.err ∧
    (effectOf i s).errcode = s.errcode ∧ (effectOf i s).ks = s.ks ∧ (effectOf i s).ie = s.ie ∧
    (effectOf i s).key = s.key ∧ (effectOf i s).din = s.din ∧ (effectOf i s).pend = s.pend ∧
    (effectOf i s).resetLine = s.resetLine ∧ (effectOf i s).agenda = s.agenda ∧
    (effectOf i s).readData = s.readData ∧ (effectOf i s).draws = s.draws := by
  cases i with
  | expand =>
    obtain ⟨Nr, Nk, -, h⟩ | ⟨-, h⟩ := expandEffect_cases s <;> simp [effectOf, h]
  | _ => simp [effectOf]

/-- Only EXPAND's pseudocode writes `W`, KEY_VALID and NR (R36, R37). -/
theorem effectOf_schedule (i : Instr) (s : State) (h : i ≠ .expand) :
    (effectOf i s).W = s.W ∧ (effectOf i s).keyValid = s.keyValid ∧ (effectOf i s).nr = s.nr := by
  cases i with
  | expand => exact absurd rfl h
  | _ => simp [effectOf]

/-- The codes a failing check gives are no `noError`, and `checkCommand` reads only KS, KEY_VALID and NR. -/
theorem checkCommand_congr (i : Instr) {s t : State} (hk : s.ks = t.ks) (hv : s.keyValid = t.keyValid)
    (hn : s.nr = t.nr) : checkCommand i s = checkCommand i t := by
  simp [checkCommand, hk, hv, hn]

/-- `CMD i ; WAIT` of a command that passes its checks: its effect, with the common bookkeeping. -/
theorem runToCompletion_of_pass (i : Instr) (s : State) (hb : s.busy = false) (hc : checkCommand i s = .noError) :
    runToCompletion i s = .next (complete (effectOf i (accept i s))) := by
  have hi : issue i s = accept i s := by simp [issue, hc]
  simp [runToCompletion, exec_idle i s hb, hi, exec_busy i (accept i s) rfl]

/-- Commands run in two parts. -/
theorem runCommands_append {is : List Instr} {s t : State} (js : List Instr) (h : runCommands is s = .next t) :
    runCommands (is ++ js) s = runCommands js t := by
  induction is generalizing s with
  | nil => simp [runCommands] at h; simp [h]
  | cons i is ih =>
    simp only [List.cons_append, runCommands] at h ⊢
    cases hr : runToCompletion i s with
    | next u => rw [hr] at h; exact ih h
    | fault f => rw [hr] at h; cases h
    | refused r => rw [hr] at h; cases h

end Sys2Proof.Machine
end

