-- ==== Sys2Proof/Laws/Step.lean ====
section
/-! SUPPORT. What one step can do, said once, and the register table. -/

namespace Sys2Proof.Machine

/-- An offset of the window that is a multiple of 4 names a register, and no other offset does. -/
theorem registerAt_isSome (off : Nat) : (registerAt off).isSome = true ↔ off % 4 = 0 ∧ off ≤ 0x7C := by
  constructor
  · intro h
    unfold registerAt at h
    split at h <;> simp_all
  · rintro ⟨h4, hle⟩
    have h : ∀ k : Fin 32, (registerAt (4 * k.val)).isSome = true := by decide
    have := h ⟨off / 4, by omega⟩
    rwa [show 4 * (off / 4) = off by omega] at this

/-- An access has a target exactly when it is 4 bytes wide and its offset names a register. -/
theorem accessTarget_ok {off width : Nat} {r : Register} :
    accessTarget off width = .ok r ↔ width = 4 ∧ registerAt off = some r := by
  unfold accessTarget
  constructor
  · intro h
    split at h
    · cases h
    · split at h
      · cases h
      · split at h
        · rename_i hw _ _ hreg
          cases h
          exact ⟨by simpa using hw, hreg⟩
        · cases h
  · rintro ⟨rfl, hreg⟩
    have h := (registerAt_isSome off).mp (by simp [hreg])
    have : ¬ off ≥ Config.windowSize := by simp [Config.windowSize]; omega
    simp [this, hreg]

/-- An access without a target lies outside the window, or has another width or alignment, and stops accordingly. -/
theorem accessTarget_error {off width : Nat} (h : off ≥ 0x80 ∨ width ≠ 4 ∨ off % 4 ≠ 0) :
    accessTarget off width = .error (if off ≥ 0x80 then .refused .outsideWindow else .fault .stuckAccess) := by
  unfold accessTarget Config.windowSize
  split
  · rfl
  · split
    · rfl
    · cases hreg : registerAt off with
      | none => rfl
      | some r =>
        have := (registerAt_isSome off).mp (by simp [hreg])
        omega

/-- An admitted access reaches its register. -/
theorem admit_register {off : Nat} {s : State} {r : Register} (act : Register → Host.Outcome State Fault Refusal)
    (hr : s.resetLine = false) (hreg : registerAt off = some r) : whenAdmitted off 4 s act = act r := by
  simp [whenAdmitted, accessTarget_ok.mpr ⟨rfl, hreg⟩, hr]

/-- No access without a target answers a next state. -/
theorem accessTarget_stops {off width : Nat} {o : Host.Outcome State Fault Refusal}
    (h : accessTarget off width = .error o) (t : State) : o ≠ .next t := by
  unfold accessTarget at h
  split at h
  · cases h; simp
  · split at h
    · cases h; simp
    · split at h <;> cases h
      simp

/-- The events by which a host access answers a next state. -/
theorem admit_next {off width : Nat} {s t : State} {act : Register → Host.Outcome State Fault Refusal}
    (h : whenAdmitted off width s act = .next t) :
    s.resetLine = false ∧ width = 4 ∧ ∃ r, registerAt off = some r ∧ act r = .next t := by
  unfold whenAdmitted at h
  split at h
  · exact absurd h (accessTarget_stops ‹_› t)
  · rename_i r htarget
    obtain ⟨hw, hreg⟩ := accessTarget_ok.mp htarget
    split at h
    · cases h
    · exact ⟨by simpa using ‹¬ s.resetLine = true›, hw, r, hreg, h⟩

/-- An event that holds the host answers no next state. -/
theorem holdsHost_stops {e : Event} (h : e.holdsHost = true) (s t : State) : applyEvent e s ≠ .next t := by
  intro ht
  cases e with
  | read off width =>
    obtain ⟨-, hw, r, hreg, -⟩ := admit_next ht
    simp [Event.holdsHost, accessTarget_ok.mpr ⟨hw, hreg⟩, Except.isOk, Except.toBool] at h
  | write off width v =>
    obtain ⟨-, hw, r, hreg, -⟩ := admit_next ht
    simp [Event.holdsHost, accessTarget_ok.mpr ⟨hw, hreg⟩, Except.isOk, Except.toBool] at h
  | engine => cases h
  | resetAssert => cases h
  | resetRelease => cases h

/-- An access outside the window, or of another width or alignment, holds the host. -/
theorem holdsHost_access {e : Event} {off width : Nat} {v : Word32}
    (he : e = .read off width ∨ e = .write off width v) (h : off ≥ 0x80 ∨ width ≠ 4 ∨ off % 4 ≠ 0) :
    e.holdsHost = true := by
  rcases he with rfl | rfl <;> simp [Event.holdsHost, accessTarget_error h, Except.isOk, Except.toBool]

/-- An event that does not hold the host is the next to happen when it stands first. -/
theorem nextEvent_first {e : Event} (rest : List Event) (h : e.holdsHost = false) :
    nextEvent (e :: rest) = (some e, rest) := by
  simp [nextEvent, h]

/-- With the host held, the next event is the first of another agent. -/
theorem nextEvent_held {e f : Event} {l : List Event} (rest : List Event) (h : e.holdsHost = true)
    (hl : ∀ x ∈ l, x.isHost = true) (hf : f.isHost = false) :
    nextEvent (e :: (l ++ f :: rest)) = (some f, e :: (l ++ rest)) := by
  have hn : ∀ x ∈ l, ¬ (!x.isHost) = true := fun x hx => by simp [hl x hx]
  simp [nextEvent, h, List.find?_append, List.eraseP_append_right _ hn, List.find?_eq_none.mpr hn, hf]

/-- With the host held and only host events to come, no event can happen. -/
theorem nextEvent_stuck {e : Event} {l : List Event} (h : e.holdsHost = true) (hl : ∀ x ∈ l, x.isHost = true) :
    nextEvent (e :: l) = (none, e :: l) := by
  have hn : ∀ x ∈ l, ¬ (!x.isHost) = true := fun x hx => by simp [hl x hx]
  simp [nextEvent, h, List.find?_eq_none.mpr hn, List.eraseP_of_forall_not hn]

/-- When no event can happen the agenda stays, and it is empty or begins with an access that holds the host. -/
theorem nextEvent_none {l : List Event} (h : (nextEvent l).1 = none) :
    (nextEvent l).2 = l ∧ (l = [] ∨ ∃ e rest, l = e :: rest ∧ e.holdsHost = true) := by
  cases l with
  | nil => exact ⟨rfl, .inl rfl⟩
  | cons e rest =>
    cases he : e.holdsHost with
    | false => simp [nextEvent, he] at h
    | true =>
      simp only [nextEvent, he, if_true, List.find?_eq_none] at h
      exact ⟨by simp [nextEvent, he, List.eraseP_of_forall_not h], .inr ⟨e, rest, rfl, he⟩⟩

/-- What happens is no access that holds the host, and what is left were events to come. -/
theorem nextEvent_some {l : List Event} {e : Event} (h : (nextEvent l).1 = some e) :
    e.holdsHost = false ∧ e ∈ l ∧ ∀ x ∈ (nextEvent l).2, x ∈ l := by
  cases l with
  | nil => cases h
  | cons f rest =>
    cases hf : f.holdsHost with
    | false =>
      simp only [nextEvent, hf, Bool.false_eq_true, if_false, Option.some.injEq] at h ⊢
      subst h
      exact ⟨hf, List.mem_cons_self, fun x hx => List.mem_cons_of_mem _ hx⟩
    | true =>
      simp only [nextEvent, hf, if_true] at h ⊢
      refine ⟨?_, List.mem_cons_of_mem _ (List.mem_of_find?_eq_some h), fun x hx => ?_⟩
      · have := List.find?_some h
        cases e <;> simp_all [Event.isHost, Event.holdsHost]
      · rcases List.mem_cons.mp hx with rfl | hx
        · exact List.mem_cons_self
        · exact List.mem_cons_of_mem _ (List.mem_of_mem_eraseP hx)

/-- An event that happens leaves one event fewer. -/
theorem nextEvent_length {l : List Event} {e : Event} (h : (nextEvent l).1 = some e) :
    (nextEvent l).2.length + 1 = l.length := by
  cases l with
  | nil => cases h
  | cons f rest =>
    cases hf : f.holdsHost with
    | false => simp [nextEvent, hf]
    | true =>
      simp only [nextEvent, hf, if_true] at h ⊢
      have hm := List.mem_of_find?_eq_some h
      have hp := List.find?_some h
      have := List.length_eraseP_of_mem (p := fun f => !f.isHost) hm hp
      have := List.length_pos_of_mem hm
      simp only [List.length_cons]
      omega

/-- What the issue of a command word can do. -/
theorem issueWord_cases (v : Word32) (s : State) (hb : s.busy = false) :
    (∃ i, decode v = .ok i ∧ i.wf = true ∧ issueWord v s = .next (issue i s)) ∨
    ((∃ e, decode v = .error e) ∧ issueWord v s = .next (failCommand .illegalCommand s)) := by
  unfold issueWord
  cases h : decode v with
  | ok i => exact .inl ⟨i, rfl, decode_wf h, exec_idle i s hb⟩
  | error e => exact .inr ⟨⟨e, rfl⟩, rfl⟩

/-- What a write to a register can do: nothing, an acknowledgement, a dropped write, a stored value, or an issue. -/
theorem writeRegister_cases (r : Register) (v : Word32) (s : State) :
    writeRegister r v s = .next s ∨
    (r = .status ∧ writeRegister r v s = .next (writeStatus v s)) ∨
    (s.busy = true ∧ writeRegister r v s = .next (raiseError .busy s)) ∨
    (s.busy = false ∧ writeRegister r v s = .next (writeCfg v s)) ∨
    (s.busy = false ∧ ∃ k, writeRegister r v s = .next (writeKey k v s)) ∨
    (s.busy = false ∧ ∃ j, writeRegister r v s = .next (writeDin j v s)) ∨
    (s.busy = false ∧ r = .cmd ∧ writeRegister r v s = issueWord v s) := by
  cases hb : s.busy <;> cases r <;> simp [writeRegister, unlessBusy, hb]
  · exact .inr (.inr (.inl ⟨_, rfl⟩))
  · exact .inr (.inr (.inr ⟨_, rfl⟩))

/-- The slots in which the engine may move: an engine event, or no event left. -/
def EngineSlot (e : Option Event) : Prop := e = none ∨ e = some .engine

/-- What one step can do, said once: the event `e` at the head of the agenda, the state `s` after it left the agenda,
and the state the step answers. -/
inductive StepResult (s : State) : Option Event → State → Prop where
  /-- an engine slot passes -/
  | idle {e} : EngineSlot e → s.busy = false → StepResult s e s
  | completed {e} (i : Instr) : EngineSlot e → s.busy = true → s.pend = some i →
      StepResult s e (complete (effectOf i s))
  | read (off : Nat) (r : Register) : s.resetLine = false → registerAt off = some r →
      StepResult s (some (.read off 4)) (deliverRead r s)
  /-- a write to a read-only or reserved register -/
  | ignored (off : Nat) (v : Word32) : s.resetLine = false → StepResult s (some (.write off 4 v)) s
  | acknowledged (off : Nat) (v : Word32) : s.resetLine = false →
      StepResult s (some (.write off 4 v)) (writeStatus v s)
  | dropped (off : Nat) (v : Word32) : s.resetLine = false → s.busy = true →
      StepResult s (some (.write off 4 v)) (raiseError .busy s)
  | cfg (off : Nat) (v : Word32) : s.resetLine = false → s.busy = false →
      StepResult s (some (.write off 4 v)) (writeCfg v s)
  | key (off : Nat) (k : Fin 8) (v : Word32) : s.resetLine = false → s.busy = false →
      StepResult s (some (.write off 4 v)) (writeKey k v s)
  | din (off : Nat) (j : Fin 4) (v : Word32) : s.resetLine = false → s.busy = false →
      StepResult s (some (.write off 4 v)) (writeDin j v s)
  | illegal (off : Nat) (v : Word32) : s.resetLine = false → s.busy = false →
      StepResult s (some (.write off 4 v)) (failCommand .illegalCommand s)
  | failed (off : Nat) (v : Word32) (i : Instr) : s.resetLine = false → s.busy = false →
      checkCommand i s ≠ .noError → StepResult s (some (.write off 4 v)) (failCommand (checkCommand i s) s)
  | accepted (off : Nat) (v : Word32) (i : Instr) : s.resetLine = false → s.busy = false → i.wf = true →
      checkCommand i s = .noError → StepResult s (some (.write off 4 v)) (accept i s)
  | reset : StepResult s (some .resetAssert) (assertReset s)
  | released : StepResult s (some .resetRelease) (releaseReset s)

theorem engineStep_next {e : Option Event} {s t : State} (he : EngineSlot e) (h : engineStep s = .next t) :
    StepResult s e t := by
  unfold engineStep at h
  split at h
  · rename_i hb
    split at h
    · rename_i i hp
      rw [exec_busy i s hb] at h
      cases h
      exact .completed i he hb hp
    · cases h
  · cases h
    exact .idle he (by simpa using ‹¬ s.busy = true›)

theorem writeRegister_next {off : Nat} {r : Register} {v : Word32} {s t : State} (hr : s.resetLine = false)
    (h : writeRegister r v s = .next t) : StepResult s (some (.write off 4 v)) t := by
  obtain h' | ⟨-, h'⟩ | ⟨hb, h'⟩ | ⟨hb, h'⟩ | ⟨hb, k, h'⟩ | ⟨hb, j, h'⟩ | ⟨hb, -, h'⟩ := writeRegister_cases r v s <;>
    rw [h'] at h
  · cases h; exact .ignored off v hr
  · cases h; exact .acknowledged off v hr
  · cases h; exact .dropped off v hr hb
  · cases h; exact .cfg off v hr hb
  · cases h; exact .key off k v hr hb
  · cases h; exact .din off j v hr hb
  · obtain ⟨i, -, hw, h''⟩ | ⟨-, h''⟩ := issueWord_cases v s hb <;> rw [h''] at h <;> cases h
    · obtain ⟨hc, hi⟩ | ⟨hc, hi⟩ := issue_cases i s <;> rw [hi]
      · exact .accepted off v i hr hb hw hc
      · exact .failed off v i hr hb hc
    · exact .illegal off v hr hb

theorem applyEvent_next {e : Event} {s t : State} (h : applyEvent e s = .next t) : StepResult s (some e) t := by
  cases e with
  | read off width =>
    obtain ⟨hr, rfl, r, hreg, h'⟩ := admit_next h
    cases h'
    exact .read off r hr hreg
  | write off width v =>
    obtain ⟨hr, rfl, r, -, h'⟩ := admit_next h
    exact writeRegister_next hr h'
  | engine => exact engineStep_next (.inr rfl) h
  | resetAssert => cases h; exact .reset
  | resetRelease => cases h; exact .released

/-- The state a step works on: the event that happens has left the agenda. -/
def afterTake (s : State) : State := { s with agenda := (nextEvent s.agenda).2 }

/-- A step at which an event can happen. -/
theorem step_event {s : State} {e : Event} {left : List Event} (h : nextEvent s.agenda = (some e, left)) :
    step s = applyEvent e { s with agenda := left } := by
  unfold step takeEvent
  rw [h]

/-- A step at which no event can happen. -/
theorem step_quiet {s : State} (h : (nextEvent s.agenda).1 = none) :
    step s = if s.busy then engineStep s else atRest s := by
  unfold step takeEvent
  rcases hn : nextEvent s.agenda with ⟨a, b⟩
  rw [hn] at h
  cases h
  rfl

/-- One inversion lemma for the step. -/
theorem step_next {s t : State} (h : step s = .next t) : StepResult (afterTake s) (nextEvent s.agenda).1 t := by
  cases he : (nextEvent s.agenda).1 with
  | some e =>
    rw [step_event (Prod.ext he rfl)] at h
    exact applyEvent_next h
  | none =>
    obtain ⟨hleft, hagenda⟩ := nextEvent_none he
    have hs : afterTake s = s := by simp [afterTake, hleft]
    rw [step_quiet he] at h
    rw [hs]
    split at h
    · exact engineStep_next (.inl rfl) h
    · rename_i hb
      unfold atRest at h
      obtain hnil | ⟨e, rest, hcons, hheld⟩ := hagenda
      · rw [hnil] at h
        cases h
        exact .idle (.inl rfl) (by simpa using hb)
      · rw [hcons] at h
        exact absurd h (holdsHost_stops hheld s t)

/-- A step at which the host is held and another agent has an event: that event happens as if it stood first. -/
theorem step_held {s : State} {e f : Event} {l rest : List Event} (ha : s.agenda = e :: (l ++ f :: rest))
    (h : e.holdsHost = true) (hl : ∀ x ∈ l, x.isHost = true) (hf : f.isHost = false) :
    step s = applyEvent f { s with agenda := e :: (l ++ rest) } :=
  step_event (by rw [ha, nextEvent_held rest h hl hf])

/-- An admitted access does not hold the host. -/
theorem holdsHost_admitted {e : Event} {off : Nat} {v : Word32} {r : Register}
    (he : e = .read off 4 ∨ e = .write off 4 v) (hreg : registerAt off = some r) : e.holdsHost = false := by
  rcases he with rfl | rfl <;>
    simp [Event.holdsHost, accessTarget_ok.mpr ⟨rfl, hreg⟩, Except.isOk, Except.toBool]

/-- A step whose event is an admitted write. -/
theorem step_write {s : State} {off : Nat} {v : Word32} {rest : List Event} {r : Register}
    (ha : s.agenda = .write off 4 v :: rest) (hr : s.resetLine = false) (hreg : registerAt off = some r) :
    step s = writeRegister r v { s with agenda := rest } := by
  rw [step_event (by rw [ha, nextEvent_first rest (holdsHost_admitted (.inr rfl) hreg)])]
  exact admit_register (s := { s with agenda := rest }) _ hr hreg

/-- A step whose event is an admitted read. -/
theorem step_read {s : State} {off : Nat} {rest : List Event} {r : Register}
    (ha : s.agenda = .read off 4 :: rest) (hr : s.resetLine = false) (hreg : registerAt off = some r) :
    step s = .next (deliverRead r { s with agenda := rest }) := by
  rw [step_event (by rw [ha, nextEvent_first rest (holdsHost_admitted (v := 0) (.inl rfl) hreg)])]
  exact admit_register (s := { s with agenda := rest }) _ hr hreg

/-- A step at the head of a run. -/
theorem run_next {s t : State} (k : Nat) (h : step s = .next t) :
    Sys2Proof.core.run (k + 1) s = Sys2Proof.core.run k t := by
  have h' : Sys2Proof.core.step s = .next t := h
  simp only [Host.Core.run, h']

/-- A step whose event is an engine slot. -/
theorem step_engine {s : State} {rest : List Event} (ha : s.agenda = .engine :: rest) :
    step s = engineStep { s with agenda := rest } :=
  step_event (by rw [ha, nextEvent_first rest rfl])

/-- A step with no event left. -/
theorem step_nil {s : State} (ha : s.agenda = []) : step s = engineStep s := by
  rw [step_quiet (by rw [ha]; rfl), engineStep, atRest, ha]
  cases s.busy <;> rfl

end Sys2Proof.Machine
end

