-- ==== Sys2Proof/Tests/Slice0.lean ====
section
/-! SUPPORT. The model's own tests: ill-formed commands refused, words written out from 30_encoding.md decoded, the
vectors of 95_test_vectors.md, and a witness for the hypotheses of every obligation that has any. Every expected value
comes from the spec. -/

open Sys2Proof Sys2Proof.Machine

namespace Sys2Proof.Tests

-- One theorem after another: each kernel evaluation that runs beside others takes a thread, and many take much memory.
set_option Elab.async false

/-! ### Helpers -/

/-- The block written as 32 hex digits in 95_test_vectors.md. -/
def blockOf (n : BitVec 128) : Block := Vector.ofFn fun i => n.extractLsb' (120 - 8 * i.val) 8

/-- The word written as 8 hex digits in 95_test_vectors.md. -/
def quadOf (n : BitVec 32) : Quad := Vector.ofFn fun i => n.extractLsb' (24 - 8 * i.val) 8

/-- The four registers of a group written as 32 hex digits. -/
def groupOf (n : BitVec 128) : Vector Word32 4 := Vector.ofFn fun j => n.extractLsb' (96 - 32 * j.val) 32

/-- The state matrix of a block, by R150. -/
def stateOf (n : BitVec 128) : Matrix := Matrix.ofFn fun r c => n.extractLsb' (120 - 8 * (4 * c.val + r.val)) 8

/-- An idle block after reset. -/
def idle : State := State.reset

/-- A block with a command pending. -/
def pending : State := { State.reset with busy := true, pend := some .nop }

/-- A block with the state matrix `n` and a command pending. -/
def pendingOn (n : BitVec 128) : State := { pending with S := stateOf n }

/-- A block whose key registers hold an AES-128 key, with EXPAND pending. -/
def pendingKey (key : BitVec 128) : State :=
  { pending with key := (Vector.replicate 8 0).mapFinIdx fun i _ h =>
      if h' : i < 4 then (groupOf key)[i] else 0 }

/-- A block with a valid AES-128 key and a command pending. -/
def pendingKeyed (key : BitVec 128) : State := setSchedule (expandKey (pendingKey key).key 10 4 pending.W) 10 pending

/-- A block with a key of ten rounds that is valid, as acceptance sees it. -/
def keyed : State := { State.reset with keyValid := true, nr := 10 }

/-- The answer is a next state that passes `p`. -/
def nextIs (o : Host.Outcome State Fault Refusal) (p : State → Bool) : Bool :=
  match o with
  | .next t => p t
  | .fault _ => false
  | .refused _ => false

/-! ### Well-formedness: a round index above 15 is refused -/

theorem test_wf_rnde : (Instr.rnde 15).wf = true ∧ (Instr.rnde 16).wf = false := by decide
theorem test_wf_rndd : (Instr.rndd 15).wf = true ∧ (Instr.rndd 16).wf = false := by decide
theorem test_wf_ark : (Instr.ark 15).wf = true ∧ (Instr.ark 16).wf = false := by decide
theorem test_wf_ldrk : (Instr.ldrk 15).wf = true ∧ (Instr.ldrk 16).wf = false := by decide

/-! ### Decoding: words from R93's map and from V-ENC, bits written 31 first -/

theorem test_decode_state_manager :
    decode 0b00000000000000000000000000000000 = .ok .nop ∧
    decode 0b00000000000000000000000000000001 = .ok .ldst ∧
    decode 0b00000000000000000000000000000010 = .ok .stst := ⟨rfl, rfl, rfl⟩

theorem test_decode_key_schedule :
    decode 0b00000000000000000000000000000011 = .ok .expand ∧
    decode 0b00000000000000000000101000001111 = .ok (.ldrk 10) := ⟨rfl, rfl⟩

theorem test_decode_block_sequencer :
    decode 0b00000000000000000000000000000100 = .ok .encb ∧
    decode 0b00000000000000000000000000000101 = .ok .decb ∧
    decode 0b00000000000000000000101000000110 = .ok (.rnde 10) ∧
    decode 0b00000000000000000000100100000111 = .ok (.rndd 9) := ⟨rfl, rfl, rfl, rfl⟩

theorem test_decode_round_transforms :
    decode 0b00000000000000000000000000001000 = .ok .sub ∧
    decode 0b00000000000000000000000000001001 = .ok .isub ∧
    decode 0b00000000000000000000000000001010 = .ok .shr ∧
    decode 0b00000000000000000000000000001011 = .ok .ishr ∧
    decode 0b00000000000000000000000000001100 = .ok .mix ∧
    decode 0b00000000000000000000000000001101 = .ok .imix ∧
    decode 0b00000000000000000000101100001110 = .ok (.ark 11) ∧
    decode 0b00000000010100110000000000010010 = .ok (.sbox 0x53) ∧
    decode 0b00000000111011010000000000010011 = .ok (.isbox 0xED) :=
  ⟨rfl, rfl, rfl, rfl, rfl, rfl, rfl, rfl, rfl⟩

theorem test_decode_gf_arith :
    decode 0b10000011010101110000000000010000 = .ok (.gfmul 0x57 0x83) ∧
    decode 0b00000000010101110000000000010001 = .ok (.gfdbl 0x57) := ⟨rfl, rfl⟩

theorem test_decode_illegal :
    decode 0x00000014 = .error .reservedOpcode ∧ decode 0x0000003F = .error .reservedOpcode ∧
    decode 0x00000040 = .error .reservedBits ∧ decode 0x00001006 = .error .reservedBits ∧
    decode 0x00000104 = .error .unusedField ∧ decode 0x00010006 = .error .unusedField ∧
    decode 0xFF800011 = .error .unusedField ∧ decode 0x00000110 = .error .unusedField :=
  ⟨rfl, rfl, rfl, rfl, rfl, rfl, rfl, rfl⟩

/-- The encoder writes the words of R93, 95_test_vectors.md section 3 and V-SB. -/
theorem test_encode :
    encode .encb = 0x00000004 ∧ encode (.rnde 1) = 0x00000106 ∧ encode (.ldrk 13) = 0x00000D0F ∧
    encode (.gfmul 0xD4 2) = 0x02D40010 ∧ encode (.gfdbl 0x80) = 0x00800011 ∧ encode (.isbox 0xED) = 0x00ED0013 :=
  ⟨rfl, rfl, rfl, rfl, rfl, rfl⟩

/-- R99: upper or lower case, operands out of range are assembly errors and never truncated. -/
theorem test_assemble : assemble ⟨"ark", [3]⟩ = some (.ark 3) ∧ assemble ⟨"ARK", [16]⟩ = none ∧
    assemble ⟨"GFMUL", [0x57, 0x83]⟩ = some (.gfmul 0x57 0x83) ∧ assemble ⟨"SBOX", [256]⟩ = none ∧
    assemble ⟨"ENCB", [0]⟩ = none := by decide +kernel

/-- R100: `GFMUL13 0x57` is word 0x0D570010, `XTIME 0x80` word 0x00800011, `INITRK` word 0x0000000E (V-GF, P1). -/
theorem test_pseudo : (assemble ⟨"GFMUL13", [0x57]⟩).map encode = some 0x0D570010 ∧
    (assemble ⟨"XTIME", [0x80]⟩).map encode = some 0x00800011 ∧
    (assemble ⟨"INITRK", []⟩).map encode = some 0x0000000E := by decide +kernel

/-! ### The commands -/

/-- V-RND has no NOP row: R154 with R98 on the pending NOP. -/
theorem test_nop : exec .nop pending = .next { pending with busy := false, done := true, pend := none } := rfl

/-- V-ST row 1. -/
theorem test_ldst : nextIs (exec .ldst { pending with din := groupOf 0x00112233445566778899AABBCCDDEEFF }) (fun t =>
    row t.S 0 == #v[0x00, 0x44, 0x88, 0xCC] && row t.S 3 == #v[0x33, 0x77, 0xBB, 0xFF]) = true := by decide +kernel

/-- V-ST row 2. -/
theorem test_stst : nextIs (exec .stst (pendingOn 0x00112233445566778899AABBCCDDEEFF)) (fun t =>
    t.dout == groupOf 0x00112233445566778899AABBCCDDEEFF && t.S == stateOf 0x00112233445566778899AABBCCDDEEFF) = true := by
  decide +kernel

/-- V-KS row 1. -/
theorem test_expand : nextIs (exec .expand (pendingKey 0x2B7E151628AED2A6ABF7158809CF4F3C)) (fun t =>
    expandedWord t.W 4 == quadOf 0xA0FAFE17 && expandedWord t.W 43 == quadOf 0xB6630CA6 &&
    expandedWord t.W 44 == zeroQuad && statusWord t == 0x00000A0A) = true := by decide +kernel

/-- V-KS row 3, the SubWord-only branch of AES-256. -/
theorem test_expand_256 : nextIs (exec .expand { pending with ks := 0b10, key :=
      #v[0x603DEB10, 0x15CA71BE, 0x2B73AEF0, 0x857D7781, 0x1F352C07, 0x3B6108D7, 0x2D9810A3, 0x0914DFF4] }) (fun t =>
    expandedWord t.W 12 == quadOf 0xA8B09C1A && expandedWord t.W 59 == quadOf 0x706C631E &&
    statusWord t == 0x00000E0A) = true := by decide +kernel

/-- V-BLK row 1, with its RK. -/
theorem test_encb : nextIs (exec .encb { pendingKeyed 0x000102030405060708090A0B0C0D0E0F with
      din := groupOf 0x00112233445566778899AABBCCDDEEFF }) (fun t =>
    t.dout == groupOf 0x69C4E0D86A7B0430D8CDB78070B4C55A && t.S == stateOf 0x69C4E0D86A7B0430D8CDB78070B4C55A &&
    t.RK == stateOf 0x13111D7FE3944A17F307A78B4D2B30C5) = true := by decide +kernel

/-- V-BLK row 1, backwards, with its RK. -/
theorem test_decb : nextIs (exec .decb { pendingKeyed 0x000102030405060708090A0B0C0D0E0F with
      din := groupOf 0x69C4E0D86A7B0430D8CDB78070B4C55A }) (fun t =>
    t.dout == groupOf 0x00112233445566778899AABBCCDDEEFF && t.RK == stateOf 0x000102030405060708090A0B0C0D0E0F)
    = true := by decide +kernel

/-- V-RND row 1. -/
theorem test_rnde : nextIs (exec (.rnde 1) { pendingKeyed 0x2B7E151628AED2A6ABF7158809CF4F3C with
      S := stateOf 0x193DE3BEA0F4E22B9AC68D2AE9F84808 }) (fun t =>
    t.S == stateOf 0xA49C7FF2689F352B6B5BEA43026A5049 && t.RK == stateOf 0xA0FAFE1788542CB123A339392A6C7605) = true := by
  decide +kernel

/-- V-RND row 10, the final round without MixColumns. -/
theorem test_rnde_final : nextIs (exec (.rnde 10) { pendingKeyed 0x2B7E151628AED2A6ABF7158809CF4F3C with
      S := stateOf 0xEB40F21E592E38848BA113E71BC342D2 }) (fun t =>
    t.S == stateOf 0x3925841D02DC09FBDC118597196A0B32) = true := by decide +kernel

/-- V-RND, the inverse table: `RNDD 9`. -/
theorem test_rndd : nextIs (exec (.rndd 9) { pendingKeyed 0x2B7E151628AED2A6ABF7158809CF4F3C with
      S := stateOf 0xE9317DB5CB322C723D2E895FAF090794 }) (fun t =>
    t.S == stateOf 0x876E46A6F24CE78C4D904AD897ECC395) = true := by decide +kernel

/-- V-RND, the inverse table: `RNDD 0`, without InvMixColumns. -/
theorem test_rndd_last : nextIs (exec (.rndd 0) { pendingKeyed 0x2B7E151628AED2A6ABF7158809CF4F3C with
      S := stateOf 0xD4BF5D30E0B452AEB84111F11E2798E5 }) (fun t =>
    t.S == stateOf 0x3243F6A8885A308D313198A2E0370734) = true := by decide +kernel

/-- V-RT: SUB. -/
theorem test_sub : nextIs (exec .sub (pendingOn 0x00112233445566778899AABBCCDDEEFF)) (fun t =>
    t.S == stateOf 0x638293C31BFC33F5C4EEACEA4BC12816) = true := by decide +kernel

/-- V-RT: ISUB. -/
theorem test_isub : nextIs (exec .isub (pendingOn 0x00112233445566778899AABBCCDDEEFF)) (fun t =>
    t.S == stateOf 0x52E3946686EDD30297F962FE27C9997D) = true := by decide +kernel

/-- V-RT: SHR. -/
theorem test_shr : nextIs (exec .shr (pendingOn 0x000102030405060708090A0B0C0D0E0F)) (fun t =>
    t.S == stateOf 0x00050A0F04090E03080D02070C01060B) = true := by decide +kernel

/-- V-RT: ISHR. -/
theorem test_ishr : nextIs (exec .ishr (pendingOn 0x000102030405060708090A0B0C0D0E0F)) (fun t =>
    t.S == stateOf 0x000D0A0704010E0B0805020F0C090603) = true := by decide +kernel

/-- V-RT: MIX, FIPS-197 B round 1. -/
theorem test_mix : nextIs (exec .mix (pendingOn 0xD4BF5D30E0B452AEB84111F11E2798E5)) (fun t =>
    t.S == stateOf 0x046681E5E0CB199A48F8D37A2806264C) = true := by decide +kernel

/-- V-RT: IMIX. -/
theorem test_imix : nextIs (exec .imix (pendingOn 0x000102030405060708090A0B0C0D0E0F)) (fun t =>
    t.S == stateOf 0x0A0F080D0E0B0C090207000506030401) = true := by decide +kernel

/-- V-RT: ARK 0. -/
theorem test_ark : nextIs (exec (.ark 0) { pendingKeyed 0x2B7E151628AED2A6ABF7158809CF4F3C with
      S := stateOf 0x3243F6A8885A308D313198A2E0370734 }) (fun t =>
    t.S == stateOf 0x193DE3BEA0F4E22B9AC68D2AE9F84808 && t.RK == stateOf 0x2B7E151628AED2A6ABF7158809CF4F3C) = true := by
  decide +kernel

/-- P4 line 10: ARK 11 under AES-128 leaves STATUS = 0x00000A5E. -/
theorem test_ark_range : nextIs (exec (.ark 11) { keyed with done := true }) (fun t =>
    statusWord t == 0x00000A5E) = true := by decide +kernel

/-- V-KS: LDRK 10. -/
theorem test_ldrk : nextIs (exec (.ldrk 10) (pendingKeyed 0x000102030405060708090A0B0C0D0E0F)) (fun t =>
    t.RK == stateOf 0x13111D7FE3944A17F307A78B4D2B30C5 && t.S == zeroMatrix) = true := by decide +kernel

/-- V-GF: 57 by 13, and the largest operands. -/
theorem test_gfmul : nextIs (exec (.gfmul 0x57 0x13) pending) (fun t => t.gfres == 0xFE) = true ∧
    nextIs (exec (.gfmul 0xFF 0xFF) pending) (fun t => t.gfres == 0x13) = true := by decide +kernel

/-- V-GF: 7F without, and FF with the reduction. -/
theorem test_gfdbl : nextIs (exec (.gfdbl 0x7F) pending) (fun t => t.gfres == 0xFE) = true ∧
    nextIs (exec (.gfdbl 0xFF) pending) (fun t => t.gfres == 0xE5) = true := by decide +kernel

/-- V-SB. -/
theorem test_sbox : nextIs (exec (.sbox 0x10) pending) (fun t => t.gfres == 0xCA) = true := by decide +kernel

/-- V-SB. -/
theorem test_isbox : nextIs (exec (.isbox 0x10) pending) (fun t => t.gfres == 0x7C) = true := by decide +kernel

/-! ### Acceptance, errors and the window -/

/-- P4 lines 1 and 2: ENCB without a key. -/
theorem test_no_key : nextIs (exec .encb idle) (fun t => statusWord t == 0x00000026) = true := by decide +kernel

/-- P4 lines 5 and 6: EXPAND with the reserved key size. -/
theorem test_key_size : nextIs (exec .expand { idle with ks := 0b11 }) (fun t => statusWord t == 0x00000016) = true := by
  decide +kernel

/-- P4 line 15: an accepted ENCB. -/
theorem test_accept : nextIs (exec .encb { keyed with done := true }) (fun t => statusWord t == 0x00000A09) = true := by
  decide +kernel

/-- P4 lines 16 and 17: a DIN write while BUSY = 1 is dropped with code 4. -/
theorem test_busy_write : nextIs (step { keyed with busy := true, agenda := [.write 0x40 4 1] }) (fun t =>
    statusWord t == 0x00000A4D && t.din == idle.din) = true := by decide +kernel

/-- V-REG: `WR 0x08, 0xFFFFFFFF` stores KS = 0b11 and IE = 1. -/
theorem test_cfg_write : nextIs (step { idle with agenda := [.write 0x08 4 0xFFFFFFFF] }) (fun t =>
    cfgWord t == 0x00000007) = true := by decide +kernel

/-- V-REG: a CFG write that changes KS clears KEY_VALID and NR; one that does not leaves them, and IE raises `irq`. -/
theorem test_cfg_key : nextIs (step { keyed with done := true, agenda := [.write 0x08 4 2] }) (fun t =>
      statusWord t == 0x00000002) = true ∧
    nextIs (step { keyed with done := true, agenda := [.write 0x08 4 4] }) (fun t =>
      statusWord t == 0x00000A0A && irq t) = true := by decide +kernel

/-- V-REG: acknowledging DONE alone, then ERR. -/
theorem test_status_write :
    nextIs (step { idle with done := true, err := true, errcode := .keyNotReady, agenda := [.write 0x04 4 2] }) (fun t =>
      statusWord t == 0x00000024) = true ∧
    nextIs (step { idle with err := true, errcode := .keyNotReady, agenda := [.write 0x04 4 4] }) (fun t =>
      statusWord t == 0x00000000) = true := by decide +kernel

/-- V-REG: `RD 0x0C` after reset. -/
theorem test_read_id : nextIs (step { idle with agenda := [.read 0x0C 4] }) (fun t =>
    t.readData == some 0x41455301) = true := by decide +kernel

/-- P3 lines 1 and 2, as events: `CMD GFMUL 0xD4, 2 ; WAIT ; RD 0x10` reads 0xB3. -/
theorem test_host_program : hostProgram [.cmd (.gfmul 0xD4 2), .wait 1, .rd 0x10] =
    [.write 0x00 4 0x02D40010, .read 0x04 4, .engine, .read 0x04 4, .read 0x10 4] := by decide +kernel

/-- R74, R98: with the host stuck at a misaligned write the engine still completes; then the machine stops. -/
theorem test_stuck_host :
    nextIs (step { pending with agenda := [.write 0x41 4 0] }) (fun t => !t.busy && t.done && t.din == idle.din) = true ∧
    step { idle with agenda := [.write 0x41 4 0] } = .fault .stuckAccess ∧
    step { idle with agenda := [.read 0x80 4] } = .refused .outsideWindow := by
  refine ⟨by decide +kernel, rfl, rfl⟩

/-- A placed word is what the next step runs, from reset. -/
theorem test_placed_word : step (State.reset.withFetchWord 32 0x83570010) =
    .next { State.reset with busy := true, pend := some (.gfmul 0x57 0x83) } := by rfl

/-! ### Witnesses: a concrete state and operands that meet all the hypotheses of a statement, clause by clause -/

/-- A block whose next event is the write of `v` to offset `off`. -/
def writing (off : Nat) (v : Word32) (s : State) : State := { s with agenda := [.write off 4 v] }

/-- A block whose next event is a read of offset `off`. -/
def reading (off : Nat) (s : State) : State := { s with agenda := [.read off 4] }

theorem witness_DecodeOfEncodeIsTheCommand :
    (Instr.rnde 0).wf = true ∧ (Instr.ldrk 15).wf = true ∧ (Instr.gfmul 0xFF 0xFF).wf = true := by decide

theorem witness_EncodeOfDecodeIsTheWord :
    decode 0xFFFF0010 = .ok (.gfmul 0xFF 0xFF) ∧ decode 0x00000F0E = .ok (.ark 15) := ⟨rfl, rfl⟩

theorem witness_IllegalWordsOnlyRecordAnError :
    decode 0x00000014 = .error .reservedOpcode ∧ idle.busy = false ∧ (writing 0x00 0x00000014 idle).resetLine = false ∧
    (writing 0x00 0x00000014 idle).agenda = .write 0x00 4 0x00000014 :: [] := ⟨rfl, rfl, rfl, rfl⟩

theorem witness_StepIssuesTheDecodedCommand :
    decode 0x00000F0E = .ok (.ark 15) ∧ (writing 0x00 0x00000F0E keyed).busy = false ∧
    (writing 0x00 0x00000F0E keyed).resetLine = false ∧
    (writing 0x00 0x00000F0E keyed).agenda = .write 0x00 4 0x00000F0E :: [] := ⟨rfl, rfl, rfl, rfl⟩

theorem witness_StepCompletesThePendingCommand :
    pending.busy = true ∧ pending.pend = some .nop ∧ pending.agenda = [] ∧
    ({ pending with agenda := [.engine] } : State).agenda = .engine :: [] := ⟨rfl, rfl, rfl, rfl⟩

theorem witness_IdleBlockKeepsItsState : keyed.busy = false ∧ keyed.agenda = [] ∧
    ({ keyed with agenda := [.engine] } : State).agenda = .engine :: [] := ⟨rfl, rfl, rfl⟩

theorem witness_PlacedWordRunsNext : 0xFFFF0010 < 2 ^ 32 ∧ decodeTableWord 32 0xFFFF0010 = some (.gfmul 0xFF 0xFF) := by
  decide +kernel

/-- Operands at both ends of their ranges and beyond, two spellings of one mnemonic, a line that assembles. -/
theorem witness_AssemblerWritesOneLegalWord :
    ("INITRK", Instr.ark 0) ∈ Claims.plainLines ∧ (0 ≤ 15 ∧ 15 ≤ 15 ∧ ¬ 16 ≤ 15) ∧ (255 ≤ 255 ∧ ¬ 256 ≤ 255) ∧
    "ldrk".toUpper = "LDRK".toUpper ∧ assemble ⟨"NOP", []⟩ = some .nop := by
  refine ⟨by simp [Claims.plainLines], by decide, by decide, ?_, by decide +kernel⟩
  apply String.toList_inj.mp
  simp [String.toUpper, String.toList_map]

/-- A pseudo-instruction and both ends of its operand's range. -/
theorem witness_PseudoInstructionsExpand :
    "GFMUL14" ∈ ["XTIME", "GFMUL3", "GFMUL9", "GFMUL11", "GFMUL13", "GFMUL14"] ∧ 0 ≤ 255 ∧ 255 ≤ 255 := by simp

/-- A write to the first and the last KEY register, and CFG writes that change and that keep KS. -/
theorem witness_KeyChangeInvalidatesTheKey :
    (∀ off ∈ [0x08, 0x20, 0x3C], (writing off 2 keyed).busy = false ∧ (writing off 2 keyed).resetLine = false ∧
      (writing off 2 keyed).agenda = .write off 4 2 :: [] ∧ off % 4 = 0) ∧
    (2 : Word32).extractLsb' 0 2 ≠ (writing 0x08 2 keyed).ks ∧ (4 : Word32).extractLsb' 0 2 = (writing 0x08 4 keyed).ks ∧
    (0x20 ≤ 0x20 ∧ 0x3C ≤ 0x3C) ∧ Claims.readsRoundKeys (.ldrk 0) = true := by decide +kernel

/-- A CMD write for each of R224's outcomes: busy, illegal, key size, no key, range below, range above, accepted. -/
theorem witness_CmdWriteFollowsTheCheckOrder :
    (writing 0x00 0x00000A0E keyed).resetLine = false ∧
    (writing 0x00 0x00000A0E keyed).agenda = .write 0x00 4 0x00000A0E :: [] ∧
    pending.busy = true ∧ keyed.busy = false ∧ decode 0x00000014 = .error .reservedOpcode ∧
    ({ idle with ks := 0b11 } : State).ks = 0b11 ∧
    (Claims.readsRoundKeys .encb = true ∧ idle.keyValid = false) ∧
    (keyed.keyValid = true ∧ Claims.outOfRange keyed.nr.toNat (.rnde 0) = true ∧
      Claims.outOfRange keyed.nr.toNat (.rndd 10) = true ∧ Claims.outOfRange keyed.nr.toNat (.ark 11) = true) ∧
    (Claims.outOfRange keyed.nr.toNat (.rnde 10) = false ∧ Claims.outOfRange keyed.nr.toNat (.rndd 9) = false ∧
      Claims.outOfRange keyed.nr.toNat (.ldrk 10) = false) := by decide +kernel

theorem witness_ErrorsArePrecise : (idle.busy = false ∧ keyed.busy = false ∧
    checkCommand .encb idle ≠ .noError ∧ checkCommand .encb keyed = .noError) ∧
    ∀ off ∈ [0x00, 0x08, 0x20, 0x4C], (writing off 1 pending).busy = true ∧ (writing off 1 pending).resetLine = false ∧
      (writing off 1 pending).agenda = .write off 4 1 :: [] ∧ off % 4 = 0 ∧
      (off = 0x00 ∨ off = 0x08 ∨ (0x20 ≤ off ∧ off ≤ 0x4C)) := by decide +kernel

theorem witness_FirstErrorIsKept :
    idle.err = false ∧ ({ idle with err := true, errcode := .busy } : State).err = true ∧ pending.busy = true :=
  ⟨rfl, rfl, rfl⟩

/-- Idle and pending states for every statement about one command, with words of each kind of R91. -/
theorem witness_NopOnlyCompletes : idle.busy = false ∧ pending.busy = true ∧
    (0x00000000 : Word32).extractLsb' 0 6 = 0x00 ∧ (0xFFFFFFC0 : Word32).extractLsb' 0 6 = 0x00 := by decide

theorem witness_LdstAndStstMoveTheBlock : idle.busy = false ∧ pending.busy = true ∧
    (0x00000001 : Word32).extractLsb' 0 6 = 0x01 ∧ (0x00000042 : Word32).extractLsb' 0 6 = 0x02 := by decide

/-- The three key sizes, the refused one, and the first and last index of each clause. -/
theorem witness_ExpandFollowsTheRecurrence :
    (0x00000003 : Word32).extractLsb' 0 6 = 0x03 ∧ idle.busy = false ∧ pending.busy = true ∧
    ({ idle with ks := 0b11 } : State).ks = 0b11 ∧
    pending.ks = 0b00 ∧ ({ pending with ks := 0b01 } : State).ks = 0b01 ∧ ({ pending with ks := 0b10 } : State).ks = 0b10 ∧
    (0 < 4 ∧ 7 < 8) ∧ (4 ≤ 4 ∧ 43 < 4 * (10 + 1) ∧ 6 ≤ 6 ∧ 51 < 4 * (12 + 1) ∧ 8 ≤ 8 ∧ 59 < 4 * (14 + 1)) ∧
    (4 * (10 + 1) ≤ 44 ∧ 4 * (14 + 1) ≤ 60) := by decide

theorem witness_LdrkLoadsTheRoundKey : (0x00000A0F : Word32).extractLsb' 0 6 = 0x0F ∧
    (idle.busy = false ∧ idle.keyValid = false) ∧ (keyed.busy = false ∧ keyed.keyValid = true) ∧
    11 > keyed.nr.toNat ∧ ¬ 10 > keyed.nr.toNat ∧ ¬ 0 > keyed.nr.toNat ∧ pending.busy = true := by decide

theorem witness_GfmulAndGfdblWriteTheProduct : pending.busy = true ∧ idle.busy = false ∧
    (0x83570010 : Word32).extractLsb' 0 6 = 0x10 ∧ (0xFF800011 : Word32).extractLsb' 0 6 = 0x11 := by decide

theorem witness_SubAndIsubReplaceEveryByte : pending.busy = true ∧ idle.busy = false ∧
    (0x00000008 : Word32).extractLsb' 0 6 = 0x08 ∧ (0x00001009 : Word32).extractLsb' 0 6 = 0x09 := by decide

theorem witness_SboxAndIsboxLookUpOneByte : pending.busy = true ∧ idle.busy = false ∧
    (0x00FF0012 : Word32).extractLsb' 0 6 = 0x12 ∧ (0x01000013 : Word32).extractLsb' 0 6 = 0x13 := by decide

theorem witness_ShrAndIshrRotateTheRows : pending.busy = true ∧ idle.busy = false ∧
    (0x0000000A : Word32).extractLsb' 0 6 = 0x0A ∧ (0x0000000B : Word32).extractLsb' 0 6 = 0x0B := by decide

theorem witness_MixAndImixCombineTheColumns : pending.busy = true ∧ idle.busy = false ∧
    col (pendingOn 0xDB135345F20A225C01010101C6C6C6C6).S 0 = #v[0xDB, 0x13, 0x53, 0x45] ∧
    col (pendingOn 0xDB135345F20A225C01010101C6C6C6C6).S 3 = #v[0xC6, 0xC6, 0xC6, 0xC6] ∧
    (0x0000000C : Word32).extractLsb' 0 6 = 0x0C ∧ (0x0000000D : Word32).extractLsb' 0 6 = 0x0D := by decide +kernel

theorem witness_ArkInjectsTheRoundKey : (0x00000B0E : Word32).extractLsb' 0 6 = 0x0E ∧
    (idle.busy = false ∧ idle.keyValid = false) ∧ (keyed.busy = false ∧ keyed.keyValid = true) ∧
    11 > keyed.nr.toNat ∧ ¬ 10 > keyed.nr.toNat ∧ pending.busy = true := by decide

theorem witness_RndeIsOneForwardRound : (0x00000A06 : Word32).extractLsb' 0 6 = 0x06 ∧
    (idle.busy = false ∧ idle.keyValid = false) ∧ (keyed.busy = false ∧ keyed.keyValid = true) ∧
    (0 = 0 ∨ 0 > keyed.nr.toNat) ∧ (11 = 0 ∨ 11 > keyed.nr.toNat) ∧ ¬ (1 = 0 ∨ 1 > keyed.nr.toNat) ∧
    ¬ (10 = 0 ∨ 10 > keyed.nr.toNat) ∧ pending.busy = true ∧
    9 ≠ ({ keyed with busy := true } : State).nr.toNat ∧ 10 = ({ keyed with busy := true } : State).nr.toNat := by decide

theorem witness_RnddIsOneInverseRound : (0x00000907 : Word32).extractLsb' 0 6 = 0x07 ∧
    (idle.busy = false ∧ idle.keyValid = false) ∧ (keyed.busy = false ∧ keyed.keyValid = true) ∧
    10 ≥ keyed.nr.toNat ∧ ¬ 9 ≥ keyed.nr.toNat ∧ ¬ 0 ≥ keyed.nr.toNat ∧ pending.busy = true ∧ 1 > 0 := by decide

theorem witness_EncbEncryptsTheBlock : (0x00000004 : Word32).extractLsb' 0 6 = 0x04 ∧
    (idle.busy = false ∧ idle.keyValid = false) ∧ (keyed.busy = false ∧ keyed.keyValid = true) ∧
    (1 ≤ 1 ∧ 10 ≤ ({ keyed with busy := true } : State).nr.toNat) ∧ ({ keyed with busy := true } : State).busy = true := by
  decide

theorem witness_DecbDecryptsTheBlock : (0x00000005 : Word32).extractLsb' 0 6 = 0x05 ∧
    (idle.busy = false ∧ idle.keyValid = false) ∧ (keyed.busy = false ∧ keyed.keyValid = true) ∧
    (0 < 10 ∧ 9 < ({ keyed with busy := true } : State).nr.toNat) ∧ ({ keyed with busy := true } : State).busy = true := by
  decide

theorem witness_DoubleAndMultiplyAreTheFieldLoop : (0x7F : Byte).toNat < 128 ∧ ¬ (0x80 : Byte).toNat < 128 ∧ 7 < 8 := by
  decide

theorem witness_RoundConstantsDouble : 0 < 9 ∧ 8 < 9 := by decide

theorem witness_SubstitutionRotationAndInjectionAreUndone :
    pending.busy = true ∧ exec (.ark 0) pending =
      .next (complete (setRK (roundKey pending.W 0) (setS (addRoundKey pending.S (roundKey pending.W 0)) pending))) :=
  ⟨rfl, rfl⟩

theorem witness_ColumnMixingIsUndone :
    pending.busy = true ∧ exec .mix pending = .next (complete (setS (mixColumns pending.S) pending)) := ⟨rfl, rfl⟩

/-- Two matrices, as states and as keys, that agree in a byte, in a row and in a column, and differ elsewhere. -/
theorem witness_LanesAreIndependent :
    (stateOf 0x00112233445566778899AABBCCDDEEFF)[(0 : Fin 4)][(0 : Fin 4)] =
      (stateOf 0x00FF22334455667788990000CC00EEFF)[(0 : Fin 4)][(0 : Fin 4)] ∧
    (stateOf 0x00112233445566778899AABBCCDDEEFF)[(0 : Fin 4)] =
      (stateOf 0x00FF22334455667788990000CC00EEFF)[(0 : Fin 4)] ∧
    col (stateOf 0x00112233445566778899AABBCCDDEEFF) 1 = col (stateOf 0x00FF22334455667788990000CC00EEFF) 1 ∧
    stateOf 0x00112233445566778899AABBCCDDEEFF ≠ stateOf 0x00FF22334455667788990000CC00EEFF := by decide +kernel

theorem witness_EncbIsItsSteps : keyed.busy = false ∧ keyed.keyValid = true := ⟨rfl, rfl⟩

theorem witness_DecbIsItsSteps : keyed.busy = false ∧ keyed.keyValid = true ∧ 0 < keyed.nr.toNat ∧ 9 < keyed.nr.toNat := by
  decide

theorem witness_EncryptionAndDecryptionRoundTrip : (pendingKeyed 0x000102030405060708090A0B0C0D0E0F).busy = true := rfl

/-- Two blocks that differ in KEY and in DOUT, with the same DIN, NR and `W`. -/
theorem witness_BlocksAreIndependent :
    (pendingKey 1).busy = true ∧ pending.busy = true ∧ (pendingKey 1).din = pending.din ∧ (pendingKey 1).nr = pending.nr ∧
    (∀ i, i < 4 * ((pendingKey 1).nr.toNat + 1) → expandedWord (pendingKey 1).W i = expandedWord pending.W i) ∧
    (pendingKey 1).key ≠ pending.key := by
  refine ⟨rfl, rfl, rfl, rfl, fun _ _ => rfl, by decide +kernel⟩

/-- Two blocks that differ only in KEY7, under AES-128. -/
theorem witness_ExpansionIsDeterministic :
    pending.busy = true ∧ (writeKey 7 1 pending).busy = true ∧ pending.ks = (writeKey 7 1 pending).ks ∧
    keySize pending.ks = some (10, 4) ∧ (∀ i, i < 4 → pending.key[i]? = (writeKey 7 1 pending).key[i]?) ∧
    pending.key ≠ (writeKey 7 1 pending).key := by
  refine ⟨rfl, rfl, rfl, rfl, by decide +kernel, by decide +kernel⟩

/-- The first and the last offset of every range of R72's table, idle and busy. -/
theorem witness_HostReadReturnsTheTable :
    ∀ off ∈ [0x00, 0x04, 0x08, 0x0C, 0x10, 0x14, 0x1C, 0x20, 0x3C, 0x40, 0x4C, 0x50, 0x5C, 0x60, 0x6C, 0x70, 0x7C],
      (reading off pending).resetLine = false ∧ (reading off pending).agenda = .read off 4 :: [] ∧
      (reading off idle).resetLine = false ∧ (reading off idle).agenda = .read off 4 :: [] ∧
      off % 4 = 0 ∧ off ≤ 0x7C := by decide +kernel

/-- The first and the last offset of every range of R73's table, idle and busy. -/
theorem witness_HostWriteFollowsTheTable :
    ∀ off ∈ [0x04, 0x08, 0x0C, 0x10, 0x14, 0x1C, 0x20, 0x3C, 0x40, 0x4C, 0x50, 0x5C, 0x60, 0x6C, 0x70, 0x7C],
      (writing off 1 pending).resetLine = false ∧ (writing off 1 pending).agenda = .write off 4 1 :: [] ∧
      (writing off 1 idle).resetLine = false ∧ (writing off 1 idle).agenda = .write off 4 1 :: [] ∧
      off % 4 = 0 ∧ off ≤ 0x7C ∧ off ≠ 0x00 := by decide +kernel

/-- The last misaligned offset and a narrow write inside the window, and the first offset outside it. -/
theorem witness_OtherAccessesGetNoStep :
    ({ idle with agenda := [.read 0x7F 4] } : State).agenda = .read 0x7F 4 :: [] ∧
    ({ idle with agenda := [.write 0x40 1 0, .read 0x04 4] } : State).agenda = .write 0x40 1 0 :: [.read 0x04 4] ∧
    Claims.NoStepAt (.read 0x7F 4) 0x7F 4 ∧ Claims.NoStepAt (.write 0x40 1 0) 0x40 1 ∧
    Claims.NoStepAt (.read 0x80 4) 0x80 4 ∧ (∀ f ∈ [Event.read 0x04 4], f.isHost = true) ∧ idle.busy = false := by
  refine ⟨rfl, rfl, ⟨.inl rfl, by decide⟩, ⟨.inr ⟨0, rfl⟩, by decide⟩, ⟨.inl rfl, by decide⟩, by decide, rfl⟩

/-- A narrow write, with an access and an engine slot behind it, and with an access only; the same for the first offset
outside the window. -/
theorem witness_StuckHostLeavesTheOthersRunning :
    Claims.NoStepAt (.write 0x40 1 0) 0x40 1 ∧ Claims.NoStepAt (.read 0x80 4) 0x80 4 ∧
    ({ pending with agenda := [.write 0x40 1 0, .read 0x04 4, .engine] } : State).agenda =
      .write 0x40 1 0 :: ([.read 0x04 4] ++ .engine :: []) ∧
    (∀ g ∈ [Event.read 0x04 4], g.isHost = true) ∧ Event.engine.isHost = false ∧
    ({ pending with agenda := [.write 0x40 1 0, .read 0x04 4] } : State).agenda = .write 0x40 1 0 :: [.read 0x04 4] ∧
    ({ pending with agenda := [.read 0x80 4, .read 0x04 4, .engine] } : State).agenda =
      .read 0x80 4 :: ([.read 0x04 4] ++ .engine :: []) ∧
    ({ pending with agenda := [.read 0x80 4, .read 0x04 4] } : State).agenda = .read 0x80 4 :: [.read 0x04 4] ∧
    pending.busy = true ∧ pending.pend = some .nop := by
  refine ⟨⟨.inr ⟨0, rfl⟩, by decide⟩, ⟨.inl rfl, by decide⟩, rfl, by decide, rfl, rfl, rfl, rfl, rfl, rfl⟩

/-- A pending command and a DIN write, which is dropped. -/
theorem witness_PendingCommandIsUndisturbed :
    pending.busy = true ∧ (nextEvent (writing 0x40 1 pending).agenda).1 = some (.write 0x40 4 1) ∧
    Event.write 0x40 4 1 ≠ .engine ∧ Event.write 0x40 4 1 ≠ .resetAssert ∧
    step (writing 0x40 1 pending) = .next (raiseError .busy pending) := by
  refine ⟨rfl, rfl, by decide, by decide, rfl⟩

/-- A step that changes GFRES, DOUT, `RK`, `S`, and the schedule. -/
theorem witness_ResultRegistersHaveOnlyTheirWriters :
    nextIs (step { pending with pend := some (.gfmul 2 3) }) (fun t => t.gfres != 0) = true ∧
    nextIs (step { pendingOn 1 with pend := some .stst }) (fun t => t.dout != idle.dout) = true ∧
    nextIs (step { pending with W := Vector.replicate 60 #v[1, 1, 1, 1], pend := some (.ldrk 0) }) (fun t =>
      t.RK != zeroMatrix) = true ∧
    nextIs (step { pending with pend := some .sub }) (fun t => t.S != zeroMatrix) = true ∧
    nextIs (step { pending with pend := some .expand }) (fun t => t.keyValid) = true ∧ ¬ Claims.Resets pending := by
  refine ⟨?_, ?_, ?_, ?_, ?_, by simp [Claims.Resets, pending, State.reset, nextEvent]⟩ <;> decide +kernel

theorem witness_ResetDiscardsThePendingCommand :
    ({ pending with agenda := [.resetAssert] } : State).agenda = .resetAssert :: [] ∧
    (assertReset (reading 0x04 pending)).resetLine = true ∧
    (assertReset (reading 0x04 pending)).agenda = .read 0x04 4 :: [] ∧
    (assertReset (writing 0x00 0 pending)).agenda = .write 0x00 4 0 :: [] := ⟨rfl, rfl, rfl, rfl⟩

/-- An interrupt that is up, the write that clears it, and a command whose acceptance clears DONE. -/
theorem witness_InterruptIsDoneOrErrWhenEnabled :
    irq { idle with ie := true, done := true } = true ∧ (writing 0x04 6 idle).resetLine = false ∧
    (writing 0x04 6 idle).agenda = .write 0x04 4 6 :: [] ∧ (6 : Word32).getLsbD 1 = true ∧ (6 : Word32).getLsbD 2 = true ∧
    idle.busy = false ∧ exec .nop idle = .next (accept .nop idle) ∧ (accept .nop idle).busy = true ∧ idle.err = false := by
  refine ⟨rfl, rfl, rfl, rfl, rfl, rfl, rfl, rfl, rfl⟩

/-- A block with the zero key expanded and ENCB pending. -/
def encrypting : State :=
  { State.reset with
    W := expandKey State.reset.key 10 4 State.reset.W, keyValid := true, nr := 10, busy := true, pend := some .encb }

/-- That block meets the invariant, whatever its events to come: a valid key, a pending command. -/
theorem encrypting_invariant (events : List Event) : Invariant { encrypting with agenda := events } where
  pendValid := rfl
  pendPasses := by
    intro i h
    cases h
    exact ⟨rfl, rfl⟩
  busyNotDone := fun _ => rfl
  errcodeMeansErr := ⟨fun _ => rfl, fun _ => rfl⟩
  noKey := fun h => by cases h
  keyIsExpansion := fun _ => ⟨10, 4, rfl, rfl, rfl,
    expandWords_idempotent _ 4 (by decide) 44 (by decide) _ 44 (le_refl 44)⟩
  resetIdle := fun h => by cases h

theorem witness_EveryStepKeepsTheInvariant :
    Invariant encrypting ∧ step encrypting = .next (complete (effectOf .encb encrypting)) :=
  ⟨encrypting_invariant [], rfl⟩

theorem witness_CompletionNeverFails : encrypting.busy = true ∧ encrypting.pend = some .encb ∧
    ({ encrypting with agenda := [.engine] } : State).agenda = .engine :: [] := ⟨rfl, rfl, rfl⟩

/-- A read of the last register is the next event. -/
theorem witness_AdmittedEventsNeverStop :
    Invariant (reading 0x7C encrypting) ∧
    ∀ e, (reading 0x7C encrypting).agenda.head? = some e → Admitted (reading 0x7C encrypting) e :=
  ⟨encrypting_invariant [.read 0x7C 4], fun e h => by cases h; exact ⟨rfl, rfl, rfl, le_refl 0x7C⟩⟩

theorem witness_CommandAndWaitEndWithDone : idle.busy = false ∧ idle.resetLine = false ∧ Instr.wf (.ark 15) = true ∧
    checkCommand .nop idle = .noError ∧ checkCommand (.ark 15) idle ≠ .noError := by decide

theorem witness_CmdWriteFollowsTheCheckOrder_key : Invariant encrypting ∧ encrypting.keyValid = true :=
  ⟨encrypting_invariant [], rfl⟩

/-- A pending ENCB, with a host that is stuck at a narrow read. -/
theorem witness_CompletionAlwaysComes :
    Invariant { encrypting with agenda := [.read 0x04 1] } ∧ encrypting.busy = true ∧
    Event.resetAssert ∉ [Event.read 0x04 1] := ⟨encrypting_invariant _, rfl, by decide⟩

theorem witness_WaitEnds : Invariant encrypting ∧ encrypting.busy = true := ⟨encrypting_invariant [], rfl⟩

end Sys2Proof.Tests
end

section
/-! Proofs of the register window's writes (20_memory.md R73), the reset values (10_state.md R43) and the interrupt
(10_state.md R39, 60_exceptions.md R226). -/

namespace Sys2Proof.Machine

/-! ### Writes to the register window -/

/-- The register table of 10_state.md read from the register: the offsets at which it lies. -/
def Register.LiesAt (off : Nat) : Register → Prop
  | .cmd => off = 0x00
  | .status => off = 0x04
  | .cfg => off = 0x08
  | .id => off = 0x0C
  | .gfres => off = 0x10
  | .reserved => off = 0x14 ∨ off = 0x18 ∨ off = 0x1C
  | .key k => off = 0x20 + 4 * k.val
  | .din j => off = 0x40 + 4 * j.val
  | .dout j => off = 0x50 + 4 * j.val
  | .state c => off = 0x60 + 4 * c.val
  | .rk c => off = 0x70 + 4 * c.val

theorem registerAt_liesAt {off : Nat} {r : Register} (h : registerAt off = some r) : r.LiesAt off := by
  unfold registerAt at h
  split at h <;> cases h <;> simp [Register.LiesAt]

/-- The index that the tables of R72 and R73 compute from an offset of a group of registers is the register's. -/
theorem ofNat_groupIndex {n : Nat} [NeZero n] (base : Nat) (k : Fin n) :
    Fin.ofNat n ((base + 4 * k.val - base) / 4) = k := by
  rw [Nat.add_sub_cancel_left, Nat.mul_div_cancel_left _ (by decide)]
  exact Fin.ofNat_val_eq_self k

theorem busWriteTable_status (v : Word32) (s : State) : Claims.busWriteTable s 0x04 v = writeStatus v s := by
  simp [Claims.busWriteTable, writeStatus, Bool.and_comm]

theorem busWriteTable_cfg (v : Word32) (s : State) :
    Claims.busWriteTable s 0x08 v = unlessBusy (writeCfg v) s := by
  by_cases hks : v.extractLsb' 0 2 = s.ks <;>
    simp [Claims.busWriteTable, unlessBusy, raiseError, writeCfg, hks]

theorem busWriteTable_key (k : Fin 8) (v : Word32) (s : State) :
    Claims.busWriteTable s (0x20 + 4 * k.val) v = unlessBusy (writeKey k v) s := by
  simp (disch := omega) only [Claims.busWriteTable, if_pos, if_neg, ofNat_groupIndex]
  rfl

theorem busWriteTable_din (j : Fin 4) (v : Word32) (s : State) :
    Claims.busWriteTable s (0x40 + 4 * j.val) v = unlessBusy (writeDin j v) s := by
  simp (disch := omega) only [Claims.busWriteTable, if_pos, if_neg, ofNat_groupIndex]
  rfl

/-- The read-only and reserved offsets: ID, GFRES and the gap below KEY0, and everything from DOUT0 on. -/
theorem busWriteTable_ignored {off : Nat} (v : Word32) (s : State)
    (h : (0x0C ≤ off ∧ off < 0x20) ∨ 0x50 ≤ off) : Claims.busWriteTable s off v = s := by
  unfold Claims.busWriteTable
  rw [if_neg (by omega), if_neg (by omega)]

/-- A write to the register at `off`, other than CMD, follows the table of R73. -/
theorem writeRegister_eq_busWriteTable {off : Nat} {r : Register} (v : Word32) (s : State)
    (hreg : registerAt off = some r) (h0 : off ≠ 0x00) :
    writeRegister r v s = .next (Claims.busWriteTable s off v) := by
  have hat := registerAt_liesAt hreg
  cases r with
  | cmd => exact absurd hat h0
  | status =>
    obtain rfl : off = 0x04 := hat
    rw [busWriteTable_status]
    rfl
  | cfg =>
    obtain rfl : off = 0x08 := hat
    rw [busWriteTable_cfg]
    rfl
  | key k =>
    obtain rfl : off = 0x20 + 4 * k.val := hat
    rw [busWriteTable_key]
    rfl
  | din j =>
    obtain rfl : off = 0x40 + 4 * j.val := hat
    rw [busWriteTable_din]
    rfl
  | id | gfres | reserved | dout | state | rk =>
    simp only [Register.LiesAt] at hat
    rw [busWriteTable_ignored v s (by omega)]
    rfl

/-- Settles O45: the write reaches the register at its offset (R73), and each register follows its line of the table. -/
theorem hostWriteFollowsTheTable : Obligations.HostWriteFollowsTheTable := by
  intro s off v rest hreset hagenda h4 hle h0
  obtain ⟨r, hreg⟩ := Option.isSome_iff_exists.mp ((registerAt_isSome off).mpr ⟨h4, hle⟩)
  rw [step_write hagenda hreset hreg]
  exact writeRegister_eq_busWriteTable v _ hreg h0

/-! ### The reset values -/

/-- Settles O52: the words and outputs are evaluated at the reset state, and each register group by its index. -/
theorem resetStateHoldsTheResetValues : Obligations.ResetStateHoldsTheResetValues := by
  refine ⟨rfl, rfl, rfl, ?key, ?blocks, ?matrices, rfl, rfl, rfl⟩
  case key => decide
  case blocks => decide
  case matrices => decide

/-! ### The interrupt -/

theorem irq_eq_true_iff (s : State) : irq s = true ↔ s.ie = true ∧ (s.done = true ∨ s.err = true) := by
  simp [irq]

theorem irq_eq_false_of_done_err {s : State} (hdone : s.done = false) (herr : s.err = false) : irq s = false := by
  simp [irq, hdone, herr]

/-- On an idle block a command leaves BUSY = 1 only by its acceptance (R97): a command that fails keeps BUSY = 0. -/
theorem exec_eq_accept_of_busy {i : Instr} {s t : State} (hidle : s.busy = false) (hexec : exec i s = .next t)
    (hbusy : t.busy = true) : t = accept i s := by
  rw [exec_idle i s hidle] at hexec
  cases hexec
  obtain ⟨-, haccept⟩ | ⟨-, hfail⟩ := issue_cases i s
  · exact haccept
  · simp [hfail, hidle] at hbusy

/-- Settles O53: `irq` is 0 once DONE and ERR both are, which the acknowledging write makes true of both and an
acceptance of DONE. -/
theorem interruptIsDoneOrErrWhenEnabled : Obligations.InterruptIsDoneOrErrWhenEnabled := by
  intro s
  refine ⟨irq_eq_true_iff s, ?acknowledged, ?accepted⟩
  case acknowledged =>
    intro v rest hreset hagenda hv1 hv2
    exact ⟨writeStatus v { s with agenda := rest }, step_write hagenda hreset rfl,
      irq_eq_false_of_done_err (by simp [hv1]) (by simp [hv2])⟩
  case accepted =>
    intro i t hidle hexec hbusy
    obtain rfl := exec_eq_accept_of_busy hidle hexec hbusy
    exact ⟨rfl, fun herr => irq_eq_false_of_done_err rfl herr⟩

end Sys2Proof.Machine
end

section
/-! Proofs of the packing of bytes into registers (20_memory.md R76) and of the register window's reads (R72). -/

namespace Sys2Proof.Machine

/-! ### Packing -/

/-- Byte `4j + m` of the block in a group of registers is byte `m` of register `j`, counted from the top (R30, R76). -/
theorem blockOfRegs_byte (g : Vector Word32 4) (j m : Fin 4) :
    (blockOfRegs g)[4 * j.val + m.val]? = some (g[j].extractLsb' (24 - 8 * m.val) 8) := by
  have hreg : (4 * j.val + m.val) / 4 = j.val := by omega
  have hbyte : (4 * j.val + m.val) % 4 = m.val := by omega
  rw [Vector.getElem?_eq_getElem (by omega)]
  simp [blockOfRegs, hreg, hbyte]

/-- Packing the block's bytes `4j` to `4j + 3` is packing what `unpack` took out of register `j`. -/
theorem regsOfBlock_blockOfRegs (g : Vector Word32 4) : regsOfBlock (blockOfRegs g) = g := by
  apply Vector.ext
  intro j hj
  have hpack : (regsOfBlock (blockOfRegs g))[j] = pack (unpack g[j]) := by
    have h1 : (4 * j + 1) / 4 = j := by omega
    have h2 : (4 * j + 2) / 4 = j := by omega
    have h3 : (4 * j + 3) / 4 = j := by omega
    simp [regsOfBlock, blockOfRegs, pack, h1, h2, h3]
  rw [hpack, pack_unpack]

/-- Settles O42: a packed register as a number, `unpack` as the inverse of `pack` on both sides, and a group of
registers as its block's bytes in order. -/
theorem packingIsBigEndian : Obligations.PackingIsBigEndian := by
  refine ⟨fun t => ⟨?number, unpack_pack t⟩, pack_unpack, fun g j m => ⟨blockOfRegs_byte g j m, ?group⟩⟩
  case number => exact append_toNat t[0] t[1] t[2] t[3]
  case group => exact regsOfBlock_blockOfRegs g

/-! ### Reads of the register window -/

/-- STATEc and RKc read as the column of the matrix, row 0 in bits 31:24. -/
theorem columns_eq_pack_col (M : Matrix) (c : Fin 4) : (Claims.columns M)[c] = pack (col M c) := by
  simp [Claims.columns, pack, col]

/-- The registers of R72 whose read is a `draw()` while BUSY = 1 are GFRES and everything from DOUT0 on. -/
theorem isResult_iff_offset {off : Nat} {r : Register} (hreg : registerAt off = some r) :
    isResult r = true ↔ off = 0x10 ∨ 0x50 ≤ off := by
  have hat := registerAt_liesAt hreg
  cases r with
  | gfres | dout | state | rk =>
    simp only [Register.LiesAt] at hat
    exact iff_of_true rfl (by omega)
  | cmd | status | cfg | id | reserved | key | din =>
    simp only [Register.LiesAt] at hat
    exact iff_of_false Bool.false_ne_true (by omega)

/-- A read of the register at `off` returns the value of R72's table. In a group of registers the offset selects the
line of the table, and the index the line computes is the register's own. -/
theorem readRegister_eq_busReadTable {off : Nat} {r : Register} (s : State) (hreg : registerAt off = some r) :
    readRegister r s = Claims.busReadTable s off := by
  have hat := registerAt_liesAt hreg
  cases r with
  | cmd | status | cfg | id | gfres =>
    obtain rfl := hat
    rfl
  | reserved => obtain rfl | rfl | rfl := hat <;> rfl
  | key | din | dout | state | rk =>
    obtain rfl := hat
    simp (disch := omega) only [Claims.busReadTable, if_pos, if_neg, ofNat_groupIndex, columns_eq_pack_col]
    rfl

/-- A read uses up a `draw()` exactly at a result register while BUSY = 1 (R72, R257). -/
theorem readDraws_iff_offset {off : Nat} {r : Register} (s : State) (hreg : registerAt off = some r) :
    readDraws r s = true ↔ s.busy = true ∧ (off = 0x10 ∨ 0x50 ≤ off) := by
  rw [readDraws, Bool.and_eq_true, isResult_iff_offset hreg, and_comm]

/-- Settles O44: the read reaches the register at its offset (R72); the value it delivers and the draw it counts are
those of the table's line. -/
theorem hostReadReturnsTheTable : Obligations.HostReadReturnsTheTable := by
  intro s off rest hreset hagenda h4 hle
  obtain ⟨r, hreg⟩ := Option.isSome_iff_exists.mp ((registerAt_isSome off).mpr ⟨h4, hle⟩)
  rw [step_read hagenda hreset hreg, deliverRead, readRegister_eq_busReadTable _ hreg]
  simp only [readDraws_iff_offset _ hreg]
  rfl

end Sys2Proof.Machine
end

section
/-! Proofs about the command word and the assembler (30_encoding.md R90 to R100): which words are illegal (R94), the
order of the checks of a CMD write (R97, R224) and the pseudo-instructions (R100). -/

namespace Sys2Proof

/-! ### Fields and fixed bits of a word -/

/-- The mask of the field of `len` bits that begins at bit `start` (R90). -/
def fieldMask (start len : Nat) : Word32 := (BitVec.allOnes len).setWidth 32 <<< start

theorem getLsbD_fieldMask {start len : Nat} (hfits : start + len ≤ 32) (i : Nat) :
    (fieldMask start len).getLsbD i = true ↔ start ≤ i ∧ i < start + len := by
  simp only [fieldMask, BitVec.getLsbD_shiftLeft, BitVec.getLsbD_setWidth, BitVec.getLsbD_allOnes, Bool.and_eq_true,
    Bool.not_eq_true', decide_eq_true_eq, decide_eq_false_iff_not]
  omega

theorem and_fieldMask_eq_zero_iff (v : Word32) {start len : Nat} (hfits : start + len ≤ 32) :
    v &&& fieldMask start len = 0 ↔ v.extractLsb' start len = 0 := by
  constructor <;> intro h <;> apply BitVec.eq_of_getLsbD_eq <;> intro i hi
  · have hmask : (fieldMask start len).getLsbD (start + i) = true := (getLsbD_fieldMask hfits _).mpr (by omega)
    have hbit := congrArg (·.getLsbD (start + i)) h
    simpa [hi, hmask] using hbit
  · by_cases hfield : start ≤ i ∧ i < start + len
    · have hbit : v.getLsbD i = false := by
        have hlow : i - start < len := by omega
        simpa [hfield, hlow] using congrArg (·.getLsbD (i - start)) h
      simp [hbit]
    · simp [(getLsbD_fieldMask hfits i).not.mpr hfield]

theorem and_or_eq_zero_iff (v m n : Word32) : v &&& (m ||| n) = 0 ↔ v &&& m = 0 ∧ v &&& n = 0 := by
  rw [BitVec.and_or_distrib_left]
  exact BitVec.or_eq_zero_iff

theorem rndOf_eq_zero_iff (v : Word32) : Claims.rndOf v = 0 ↔ v.extractLsb' 8 4 = 0 :=
  BitVec.toNat_inj (y := 0)

/-- A field that the format does not use (R91) is nonzero. -/
def Format.UnusedFieldNonzero (v : Word32) : Format → Prop
  | .f0 => Claims.rndOf v ≠ 0 ∨ Claims.aOf v ≠ 0 ∨ Claims.bOf v ≠ 0
  | .fr => Claims.aOf v ≠ 0 ∨ Claims.bOf v ≠ 0
  | .fa => Claims.rndOf v ≠ 0 ∨ Claims.bOf v ≠ 0
  | .fab => Claims.rndOf v ≠ 0

/-- The mask of the fields that a format does not use (R91). -/
def Format.unusedMask : Format → Word32
  | .f0 => fieldMask 8 4 ||| (fieldMask 16 8 ||| fieldMask 24 8)
  | .fr => fieldMask 16 8 ||| fieldMask 24 8
  | .fa => fieldMask 8 4 ||| fieldMask 24 8
  | .fab => fieldMask 8 4

/-- The bits above OP that a format fixes: the reserved bits 7:6 and 15:12, and the fields it does not use. -/
theorem fixedBits_eq_fields (F : Format) :
    F.mask &&& 0xFFFFFFC0 = fieldMask 6 2 ||| (fieldMask 12 4 ||| F.unusedMask) := by
  cases F <;> decide

theorem and_unusedMask_eq_zero_iff (v : Word32) (F : Format) :
    v &&& F.unusedMask = 0 ↔ ¬ F.UnusedFieldNonzero v := by
  cases F <;> simp (disch := decide) only [Format.unusedMask, and_or_eq_zero_iff, and_fieldMask_eq_zero_iff,
    Format.UnusedFieldNonzero, rndOf_eq_zero_iff, Claims.aOf, Claims.bOf, ne_eq, not_or, not_not]

/-- A word is its opcode and the operands of a format exactly when the reserved bits and the fields that the format
does not use are 0 (R90, R91). -/
theorem fixedBits_iff_fields (v : Word32) (F : Format) : v &&& F.mask = (opField v).setWidth 32 ↔
    v.extractLsb' 6 2 = 0 ∧ v.extractLsb' 12 4 = 0 ∧ ¬ F.UnusedFieldNonzero v := by
  rw [fixedBits_iff, fixedBits_eq_fields, and_or_eq_zero_iff, and_or_eq_zero_iff, and_unusedMask_eq_zero_iff,
    and_fieldMask_eq_zero_iff v (by decide), and_fieldMask_eq_zero_iff v (by decide)]

/-! ### The decoder -/

/-- The decoder reads the row of the opcode map that OP names, or none if OP is 0x14 or more (R93, R96). -/
theorem decode_cases (v : Word32) :
    (0x14 ≤ (opField v).toNat ∧ decode v = .error .reservedOpcode) ∨
    ∃ F i, decode v = decodeRow v F i ∧ i.format = F ∧ i.opcode = opField v := by
  unfold decode
  split
  case h_21 =>
    refine .inl ⟨?_, rfl⟩
    simp only [imp_false] at *
    omega
  all_goals exact .inr ⟨_, _, rfl, rfl, BitVec.eq_of_toNat_eq (Eq.symm ‹_›)⟩

theorem opcode_lt (i : Instr) : i.opcode.toNat < 0x14 := by
  cases i <;> simp [Instr.opcode]

/-- The table of the fields an opcode leaves unused is that of its command's format. -/
theorem unusedFieldNonzero_iff {v : Word32} {i : Instr} (h : i.opcode = opField v) :
    Claims.unusedFieldNonzero v = true ↔ i.format.UnusedFieldNonzero v := by
  have hop : v.extractLsb' 0 6 = i.opcode := h.symm
  cases i <;> simp [Claims.unusedFieldNonzero, hop, Instr.opcode, Instr.format, Format.UnusedFieldNonzero]

theorem decodeRow_error_iff (v : Word32) (F : Format) (i : Instr) :
    (∃ r, decodeRow v F i = .error r) ↔ v &&& F.mask ≠ (opField v).setWidth 32 := by
  unfold decodeRow
  split
  · simp [*]
  · split <;> simp [*]

theorem decode_error_iff (v : Word32) : (∃ r, decode v = .error r) ↔
    ((v.extractLsb' 0 6).toNat ≥ 0x14 ∨ v.extractLsb' 6 2 ≠ 0 ∨ v.extractLsb' 12 4 ≠ 0 ∨
      Claims.unusedFieldNonzero v = true) := by
  obtain ⟨hop, hdecode⟩ | ⟨F, i, hdecode, rfl, hop⟩ := decode_cases v
  · exact iff_of_true ⟨_, hdecode⟩ (.inl hop)
  · have hlow : ¬ (v.extractLsb' 0 6).toNat ≥ 0x14 := by
      rw [← opField, ← hop]
      exact Nat.not_le.mpr (opcode_lt i)
    rw [hdecode, decodeRow_error_iff, Ne, fixedBits_iff_fields, unusedFieldNonzero_iff hop]
    tauto

theorem decode_nop_iff (v : Word32) : decode v = .ok .nop ↔ v = 0 := by
  constructor
  · intro h
    obtain ⟨-, hdecode⟩ | ⟨F, i, hdecode, rfl, hop⟩ := decode_cases v
    · rw [hdecode] at h
      cases h
    · rw [hdecode] at h
      obtain ⟨rfl, hbits⟩ := decodeRow_ok h
      have hmask : Instr.nop.format.mask = BitVec.allOnes 32 := by decide
      rwa [← hop, hmask, BitVec.and_allOnes] at hbits
  · rintro rfl
    rfl

/-! ### The assembler -/

/-! A line assembles by its mnemonic in upper case (R99). -/

theorem assemble_of_byteLine {p : String × (Byte → Instr)} (hp : p ∈ Claims.byteLines) {m : String}
    (hupper : m.toUpper = p.1) (a : Nat) : assemble ⟨m, [a]⟩ = (asmByte a).map p.2 := by
  simp only [Claims.byteLines, List.mem_cons, List.not_mem_nil, or_false] at hp
  obtain rfl | rfl | rfl | rfl | rfl | rfl | rfl | rfl | rfl := hp <;>
    simp only [assemble, hupper, Pseudo.expand]

theorem assemble_of_gfmul {m : String} (hupper : m.toUpper = "GFMUL") (a b : Nat) :
    assemble ⟨m, [a, b]⟩ = (asmByte a).bind fun x => (asmByte b).map (Instr.gfmul x) := by
  simp only [assemble, hupper]

theorem assemble_of_initrk {m : String} (hupper : m.toUpper = "INITRK") : assemble ⟨m, []⟩ = some (.ark 0) := by
  simp only [assemble, hupper, Pseudo.expand]

theorem assemble_of_ark {m : String} (hupper : m.toUpper = "ARK") (r : Nat) :
    assemble ⟨m, [r]⟩ = (asmRound r).map .ark := by
  simp only [assemble, hupper]

/-! The lines of R99 and R100 as written, in upper case. -/

theorem toUpper_eq_self_iff (m : String) : m.toUpper = m ↔ m.toList.map Char.toUpper = m.toList := by
  rw [← String.toList_inj, String.toUpper, String.toList_map]

theorem byteLines_toUpper : ∀ p ∈ Claims.byteLines, p.1.toUpper = p.1 := by
  simp [Claims.byteLines, toUpper_eq_self_iff]

theorem assemble_byteLine (a : Nat) : ∀ p ∈ Claims.byteLines, assemble ⟨p.1, [a]⟩ = (asmByte a).map p.2 :=
  fun p hp => assemble_of_byteLine hp (byteLines_toUpper p hp) a

theorem assemble_gfmul_const (a : Nat) {c : Nat} (hc : c ≤ 255) :
    assemble ⟨"GFMUL", [a, c]⟩ = (asmByte a).map fun x => .gfmul x (BitVec.ofNat 8 c) := by
  rw [assemble_of_gfmul (by simp [toUpper_eq_self_iff]), asmByte, asmByte, if_pos hc]
  split <;> rfl

theorem assemble_initrk : assemble ⟨"INITRK", []⟩ = some (.ark 0) :=
  assemble_of_initrk (by simp [toUpper_eq_self_iff])

theorem assemble_ark (r : Nat) : assemble ⟨"ARK", [r]⟩ = (asmRound r).map .ark :=
  assemble_of_ark (by simp [toUpper_eq_self_iff]) r

/-- The pseudo-instructions with an operand (R100) are the lines from XTIME on. -/
theorem pseudo_byteLines :
    (Claims.byteLines.drop 3).map Prod.fst = ["XTIME", "GFMUL3", "GFMUL9", "GFMUL11", "GFMUL13", "GFMUL14"] := rfl

/-- Settles O6: the line of each pseudo-instruction and the line of its expansion are the same function of the operand,
which has a value when the operand is a byte. -/
theorem pseudoInstructionsExpand : Obligations.PseudoInstructionsExpand := by
  refine ⟨fun a => ?expansion, fun m hm a ha => ?inRange, ?initrk, .ark 0, assemble_initrk⟩
  case expansion =>
    have hline := assemble_byteLine a
    simp only [Claims.byteLines, List.forall_mem_cons] at hline
    obtain ⟨hgfdbl, -, -, hxtime, h3, h9, h11, h13, h14, -⟩ := hline
    have hgfmul (c : Nat) (hc : c ≤ 255) := (assemble_gfmul_const a hc).symm
    exact ⟨hxtime.trans hgfdbl.symm, h3.trans (hgfmul 3 (by decide)), h9.trans (hgfmul 9 (by decide)),
      h11.trans (hgfmul 11 (by decide)), h13.trans (hgfmul 13 (by decide)), h14.trans (hgfmul 14 (by decide))⟩
  case inRange =>
    obtain ⟨p, hp, rfl⟩ := List.mem_map.mp (pseudo_byteLines ▸ hm)
    refine ⟨p.2 (BitVec.ofNat 8 a), ?_⟩
    rw [assemble_byteLine a p (List.mem_of_mem_drop hp), asmByte, if_pos ha, Option.map_some]
  case initrk =>
    rw [assemble_initrk, assemble_ark]
    rfl

end Sys2Proof

namespace Sys2Proof.Machine

/-! ### The checks of a CMD write -/

/-- With BUSY = 0 a CMD write issues the word it carries (R73, R97). -/
theorem step_cmdWrite_idle {s : State} {v : Word32} {rest : List Event} (hagenda : s.agenda = .write 0x00 4 v :: rest)
    (hreset : s.resetLine = false) (hidle : s.busy = false) : step s = issueWord v { s with agenda := rest } := by
  rw [step_write hagenda hreset rfl]
  simp [writeRegister, hidle]

/-- With BUSY = 1 a CMD write is dropped and recorded (R73, R224). -/
theorem step_cmdWrite_busy {s : State} {v : Word32} {rest : List Event} (hagenda : s.agenda = .write 0x00 4 v :: rest)
    (hreset : s.resetLine = false) (hbusy : s.busy = true) :
    step s = .next (raiseError .busy { s with agenda := rest }) := by
  rw [step_write hagenda hreset rfl]
  simp [writeRegister, hbusy]

theorem issueWord_error {v : Word32} {r : IllegalWord} (h : decode v = .error r) (s : State) :
    issueWord v s = Claims.Failed .illegalCommand s := by
  rw [issueWord, h]
  rfl

theorem issueWord_ok {v : Word32} {i : Instr} (h : decode v = .ok i) {s : State} (hidle : s.busy = false) :
    issueWord v s = .next (issue i s) := by
  rw [issueWord, h]
  exact exec_idle i s hidle

/-- Settles O4: a word is illegal if no row of the opcode map has its OP, or if the row's format fixes a bit that is set
(R94); its issue reaches `failCommand`; and the row of NOP fixes every bit. -/
theorem illegalWordsOnlyRecordAnError : Obligations.IllegalWordsOnlyRecordAnError := by
  refine ⟨decode_error_iff, ?step, decode_nop_iff⟩
  intro s v r rest hdecode hidle hreset hagenda
  rw [step_cmdWrite_idle hagenda hreset hidle, issueWord_error hdecode]

theorem needsKey_eq_readsRoundKeys (i : Instr) : needsKey i = Claims.readsRoundKeys i := by
  cases i <;> rfl

theorem roundOutOfRange_eq_outOfRange (nr : Nat) (i : Instr) : roundOutOfRange nr i = Claims.outOfRange nr i := by
  cases i <;> rfl

theorem keySizeRefused_iff (ks : BitVec 2) :
    keySizeRefused ks = true ↔ ks = 0b11 ∨ (ks = 0b01 ∧ Config.allowAes192 = false) := by
  simp [keySizeRefused]

/-- A key size gives 10, 12 or 14 rounds (R130). -/
theorem keySize_rounds {ks : BitVec 2} {Nr Nk : Nat} (h : keySize ks = some (Nr, Nk)) :
    Nr = 10 ∨ Nr = 12 ∨ Nr = 14 := by
  unfold keySize at h
  split at h <;> cases h <;> simp

theorem Invariant.rounds_of_keyValid {s : State} (hinv : Invariant s) (hkey : s.keyValid = true) :
    s.nr = 10 ∨ s.nr = 12 ∨ s.nr = 14 := by
  obtain ⟨Nr, Nk, hsize, -, hnr, -⟩ := hinv.keyIsExpansion hkey
  rw [hnr]
  obtain rfl | rfl | rfl := keySize_rounds hsize <;> simp

/-- The checks of a decoded command are the lines of R224 from the key size on. -/
theorem checkCommand_eq_checkOrder (i : Instr) (s : State) : checkCommand i s =
    if i = .expand ∧ (s.ks = 0b11 ∨ (s.ks = 0b01 ∧ Config.allowAes192 = false)) then .invalidKeySize
    else if Claims.readsRoundKeys i = true ∧ s.keyValid = false then .keyNotReady
    else if Claims.outOfRange s.nr.toNat i = true then .roundRange
    else .noError := by
  simp only [checkCommand, needsKey_eq_readsRoundKeys, roundOutOfRange_eq_outOfRange, keySizeRefused_iff]

theorem issue_of_fail {i : Instr} {s : State} {c : ErrorCode} (hcheck : checkCommand i s = c) (hc : c ≠ .noError) :
    .next (issue i s) = Claims.Failed c s := by
  rw [issue, hcheck, if_neg hc]
  rfl

theorem issue_of_pass {i : Instr} {s : State} (hcheck : checkCommand i s = .noError) :
    .next (issue i s) = Claims.Accepted i s := by
  rw [issue, if_pos hcheck]
  rfl

/-- The first check of R224 that fails gives the code of the failure, and a command that passes them all is latched. -/
theorem issue_eq_checkOrder (i : Instr) (s : State) : .next (issue i s) =
    if i = .expand ∧ (s.ks = 0b11 ∨ (s.ks = 0b01 ∧ Config.allowAes192 = false)) then
      Claims.Failed .invalidKeySize s
    else if Claims.readsRoundKeys i = true ∧ s.keyValid = false then Claims.Failed .keyNotReady s
    else if Claims.outOfRange s.nr.toNat i = true then Claims.Failed .roundRange s
    else Claims.Accepted i s := by
  have hcheck := checkCommand_eq_checkOrder i s
  split_ifs at hcheck ⊢ with hsize hkey hrange
  · exact issue_of_fail hcheck (by decide)
  · exact issue_of_fail hcheck (by decide)
  · exact issue_of_fail hcheck (by decide)
  · exact issue_of_pass hcheck

/-- Settles O11: a valid key's NR is that of its key size; the step's checks before the key size are BUSY and the
decoder's answer, and `checkCommand` makes the rest in R224's order. -/
theorem cmdWriteFollowsTheCheckOrder : Obligations.CmdWriteFollowsTheCheckOrder := by
  refine ⟨fun s hinv hkey => hinv.rounds_of_keyValid hkey, ?step⟩
  intro s v rest hreset hagenda
  by_cases hbusy : s.busy = true
  · rw [if_pos hbusy, step_cmdWrite_busy hagenda hreset hbusy]
    rfl
  · have hidle : s.busy = false := Bool.eq_false_of_not_eq_true hbusy
    rw [if_neg hbusy, step_cmdWrite_idle hagenda hreset hidle]
    cases hdecode : decode v with
    | error r => exact issueWord_error hdecode _
    | ok i =>
      rw [issueWord_ok (s := { s with agenda := rest }) hdecode hidle]
      exact issue_eq_checkOrder i { s with agenda := rest }

end Sys2Proof.Machine
end

section
/-! Proofs about the multiplier and its commands GFMUL and GFDBL (40_gf_arith.md), with what a command rule's encoding,
acceptance and completion need, said for every command. -/

namespace Sys2Proof.Machine

/-! ### The three parts of a command rule -/

/-- The words of a row of the opcode map, of format `F`, are those with no bit set that `F` fixes above OP; every other
word of the row is illegal (R91, R94, R97). -/
theorem wordsOf_of_decodeRow {op : BitVec 6} {zero : Word32} {i : Word32 → Instr} (F : Format)
    (hzero : F.mask &&& 0xFFFFFFC0 = zero) (hrow : ∀ v, opField v = op → decode v = decodeRow v F (i v)) :
    Claims.WordsOf op zero i := by
  intro v hop
  have hdecode := hrow v hop
  rw [← hzero]
  split <;> rename_i hbits <;> rw [← fixedBits_iff] at hbits
  · rw [hdecode, decodeRow, if_pos hbits]
  · obtain ⟨r, hr⟩ := (decodeRow_error_iff v F (i v)).mpr hbits
    exact fun s _ => issueWord_error (hdecode.trans hr) s

/-- A command that has no check of the key size, the key or the round always passes (R97, R224). -/
theorem alwaysAccepted_of_unchecked {i : Instr} (hsize : i ≠ .expand) (hkey : needsKey i = false)
    (hround : ∀ nr, roundOutOfRange nr i = false) : Claims.AlwaysAccepted i := by
  intro s hidle
  have hcheck : checkCommand i s = .noError := by simp [checkCommand, hsize, hkey, hround]
  rw [exec_idle i s hidle, issue_of_pass hcheck]

/-- A completion is the command's pseudocode with the common bookkeeping (R98). -/
theorem exec_eq_completed (i : Instr) {s : State} (hbusy : s.busy = true) :
    exec i s = Claims.Completed (effectOf i s) :=
  exec_busy i s hbusy

/-! ### GFMUL and GFDBL -/

theorem decode_gfmul {v : Word32} (hop : opField v = 0x10) :
    decode v = decodeRow v .fab (.gfmul (Claims.aOf v) (Claims.bOf v)) := by
  rw [decode, hop]
  rfl

theorem decode_gfdbl {v : Word32} (hop : opField v = 0x11) : decode v = decodeRow v .fa (.gfdbl (Claims.aOf v)) := by
  rw [decode, hop]
  rfl

/-- Settles O18: the two rows of the opcode map give the words, neither command has a check, and the pseudocode of each
is one assignment to GFRES. -/
theorem gfmulAndGfdblWriteTheProduct : Obligations.GfmulAndGfdblWriteTheProduct := by
  refine ⟨wordsOf_of_decodeRow .fab (by decide) fun _ => decode_gfmul,
    wordsOf_of_decodeRow .fa (by decide) fun _ => decode_gfdbl, fun a b => ⟨?gfmul, ?gfdbl, ?completion⟩⟩
  case gfmul => exact alwaysAccepted_of_unchecked nofun rfl fun _ => rfl
  case gfdbl => exact alwaysAccepted_of_unchecked nofun rfl fun _ => rfl
  case completion => exact fun s hbusy => ⟨exec_eq_completed (.gfmul a b) hbusy, exec_eq_completed (.gfdbl a) hbusy⟩

/-! ### Doubling and the multiplication loop -/

/-- The bit that doubling shifts out is 1 from 128 on. -/
theorem getLsbD_seven_iff (b : Byte) : b.getLsbD 7 = true ↔ 128 ≤ b.toNat := by
  rw [← BitVec.msb_eq_getLsbD_last b, BitVec.msb_eq_decide, decide_eq_true_eq]

theorem toNat_double_of_lt {b : Byte} (h : b.toNat < 128) : (double b).toNat = 2 * b.toNat := by
  have hbit : ¬ b.getLsbD 7 = true := (getLsbD_seven_iff b).not.mpr (by omega)
  rw [double, if_neg hbit, BitVec.toNat_shiftLeft, Nat.shiftLeft_eq]
  omega

theorem toNat_double_of_ge {b : Byte} (h : 128 ≤ b.toNat) : (double b).toNat = (2 * b.toNat - 256) ^^^ 0x1B := by
  have hshift : (b <<< 1).toNat = 2 * b.toNat - 256 := by
    rw [BitVec.toNat_shiftLeft, Nat.shiftLeft_eq]
    omega
  rw [double, if_pos ((getLsbD_seven_iff b).mpr h), BitVec.toNat_xor, hshift]
  rfl

/-- R111's accumulator and multiplicand after `n` turns of the loop. -/
def multiplyTurns (a b : Byte) (n : Nat) : Byte × Byte := (List.range n).foldl (multiplyBit b) (0x00, a)

theorem multiplyTurns_succ (a b : Byte) (n : Nat) :
    multiplyTurns a b (n + 1) = multiplyBit b (multiplyTurns a b n) n := by
  simp only [multiplyTurns, List.range_succ, List.foldl_append, List.foldl_cons, List.foldl_nil]

theorem multiply_eq_multiplyTurns (a b : Byte) : multiply a b = (multiplyTurns a b 8).1 := rfl

/-- Settles O28: doubling reduces exactly when the shift leaves the byte, and the accumulator and the multiplicand of
the loop are the two sequences, one turn at a time. -/
theorem doubleAndMultiplyAreTheFieldLoop : Obligations.DoubleAndMultiplyAreTheFieldLoop := by
  refine ⟨fun b => ?double, fun a b => ⟨fun n => (multiplyTurns a b n).1, fun n => (multiplyTurns a b n).2,
    rfl, rfl, fun i _ => ?turn, multiply_eq_multiplyTurns a b⟩⟩
  case double =>
    split
    · exact toNat_double_of_lt ‹_›
    · exact toNat_double_of_ge (Nat.not_lt.mp ‹_›)
  case turn => simp only [multiplyTurns_succ, multiplyBit, and_self]

end Sys2Proof.Machine
end

section
/-! Proofs about the key schedule and its commands EXPAND and LDRK (41_key_schedule.md), with the acceptance of every
command that reads a round key (R97, R224). -/

namespace Sys2Proof.Machine

/-! ### The expansion under a key size -/

/-- The key sizes of R130, read from KS. -/
theorem keySize_of_table {ks : BitVec 2} {Nr Nk : Nat}
    (h : (ks = 0b00 ∧ Nr = 10 ∧ Nk = 4) ∨ (ks = 0b01 ∧ Nr = 12 ∧ Nk = 6) ∨ (ks = 0b10 ∧ Nr = 14 ∧ Nk = 8)) :
    keySize ks = some (Nr, Nk) := by
  obtain ⟨rfl, rfl, rfl⟩ | ⟨rfl, rfl, rfl⟩ | ⟨rfl, rfl, rfl⟩ := h <;> rfl

/-- Under each key size the raw key is nonempty, and the round keys hold it and fit the store (R115, R130). -/
theorem keySize_bounds {ks : BitVec 2} {Nr Nk : Nat} (h : keySize ks = some (Nr, Nk)) :
    0 < Nk ∧ Nk ≤ 4 * (Nr + 1) ∧ 4 * (Nr + 1) ≤ 60 := by
  unfold keySize at h
  split at h <;> cases h <;> decide

theorem expandEffect_of_keySize {s : State} {Nr Nk : Nat} (h : keySize s.ks = some (Nr, Nk)) :
    expandEffect s = setSchedule (expandKey s.key Nr Nk s.W) (BitVec.ofNat 4 Nr) s := by
  rw [expandEffect, h]

/-- R132's word `t`, with RotWord, SubWord and the round constant written out byte by byte (R135). -/
theorem scheduleCore_eq_stepWord (Nk i : Nat) (p : Quad) : scheduleCore Nk i p = Claims.stepWord Nk i p := rfl

section Expansion

variable {ks : BitVec 2} {Nr Nk : Nat} (hsize : keySize ks = some (Nr, Nk)) (key : Vector Word32 8)
  (W : Vector Quad 60) {i : Nat}

include hsize

/-- The first `Nk` words are the raw key (R131, R132). -/
theorem expandKey_raw (hi : i < Nk) : expandedWord (expandKey key Nr Nk W) i = rawKeyWord key i := by
  obtain ⟨hpos, hraw, hfit⟩ := keySize_bounds hsize
  rw [expandKey, expandWords_word key Nk hpos _ W i (by omega) hfit, scheduleWord, if_pos hi]

/-- The words from `Nk` on are R132's recurrence in the finished store. -/
theorem expandKey_recurrence (hraw : Nk ≤ i) (hi : i < 4 * (Nr + 1)) :
    expandedWord (expandKey key Nr Nk W) i =
      xorQuad (Claims.stepWord Nk i (expandedWord (expandKey key Nr Nk W) (i - 1)))
        (expandedWord (expandKey key Nr Nk W) (i - Nk)) := by
  obtain ⟨hpos, -, hfit⟩ := keySize_bounds hsize
  rw [← scheduleCore_eq_stepWord, expandKey, expandWords_word key Nk hpos _ W i hi hfit, scheduleWord,
    if_neg (Nat.not_lt.mpr hraw)]

end Expansion

/-! ### EXPAND -/

theorem decode_expand {v : Word32} (hop : opField v = 0x03) : decode v = decodeRow v .f0 .expand := by
  rw [decode, hop]
  rfl

/-- Settles O16: EXPAND's only check is the key size, and each word of the store it leaves is the one that R132 gives
for its index. -/
theorem expandFollowsTheRecurrence : Obligations.ExpandFollowsTheRecurrence := by
  refine ⟨wordsOf_of_decodeRow .f0 (by decide) fun _ => decode_expand, ?acceptance, ?completion⟩
  case acceptance =>
    intro s hidle
    rw [exec_idle .expand s hidle, issue_eq_checkOrder]
    simp [Claims.readsRoundKeys, Claims.outOfRange]
  case completion =>
    intro s Nr Nk hbusy htable
    have hsize : keySize s.ks = some (Nr, Nk) := keySize_of_table htable
    refine ⟨expandKey s.key Nr Nk s.W, fun i hi k => ?raw, fun i hraw hi k => ?recurrence, fun i hi => ?frame, ?exec⟩
    case raw =>
      rw [expandKey_raw hsize s.key s.W hi]
      exact unpack_byte k k.isLt _
    case recurrence =>
      rw [expandKey_recurrence hsize s.key s.W hraw hi]
      exact xorQuad_byte k k.isLt _ _
    case frame => exact expandWords_frame s.key Nk _ s.W i hi
    case exec =>
      rw [exec_eq_completed .expand hbusy, effectOf, expandEffect_of_keySize hsize]
      rfl

/-! ### Commands that read a round key -/

/-- A command that reads round keys fails without a valid key, then out of range, and passes otherwise (R224). -/
theorem keyedAcceptance_of_readsRoundKeys {i : Instr} {bad : State → Prop} (hkey : Claims.readsRoundKeys i = true)
    (hrange : ∀ s : State, Claims.outOfRange s.nr.toNat i = true ↔ bad s) : Claims.KeyedAcceptance i bad := by
  intro s hidle
  have hexpand : i ≠ .expand := by
    rintro rfl
    cases hkey
  rw [exec_idle i s hidle, issue_eq_checkOrder]
  refine ⟨fun hnone => ?noKey, fun hvalid hbad => ?badRound, fun hvalid hgood => ?accepted⟩
  case noKey => simp [hexpand, hkey, hnone]
  case badRound => simp [hexpand, hvalid, (hrange s).mpr hbad]
  case accepted => simp [hexpand, hvalid, (hrange s).not.mpr hgood]

/-! ### LDRK -/

theorem decode_ldrk {v : Word32} (hop : opField v = 0x0F) : decode v = decodeRow v .fr (.ldrk (Claims.rndOf v)) := by
  rw [decode, hop]
  rfl

/-- Settles O17: LDRK has the checks of a command that reads a round key, and its pseudocode assigns the round key, as
R136 transposes it, to RK. -/
theorem ldrkLoadsTheRoundKey : Obligations.LdrkLoadsTheRoundKey := by
  refine ⟨wordsOf_of_decodeRow .fr (by decide) fun _ => decode_ldrk, fun rnd => ⟨?acceptance, ?completion⟩⟩
  case acceptance =>
    exact keyedAcceptance_of_readsRoundKeys rfl fun _ => decide_eq_true_iff
  case completion => exact fun s hbusy => exec_eq_completed (.ldrk rnd) hbusy

end Sys2Proof.Machine
end

section
/-! Proofs about the state manager's commands NOP, LDST and STST (42_state_manager.md). -/

namespace Sys2Proof.Machine

/-! ### NOP -/

theorem decode_nop {v : Word32} (hop : opField v = 0x00) : decode v = decodeRow v .f0 .nop := by
  rw [decode, hop]
  rfl

/-- Settles O14: NOP's row of the opcode map fixes every bit, NOP has no check, and its pseudocode is the identity, so
its completion is the common bookkeeping alone. -/
theorem nopOnlyCompletes : Obligations.NopOnlyCompletes := by
  refine ⟨wordsOf_of_decodeRow .f0 (by decide) fun _ => decode_nop, ?acceptance, ?completion⟩
  case acceptance => exact alwaysAccepted_of_unchecked nofun rfl fun _ => rfl
  case completion => exact fun s hbusy => exec_eq_completed .nop hbusy

/-! ### LDST and STST -/

theorem decode_ldst {v : Word32} (hop : opField v = 0x01) : decode v = decodeRow v .f0 .ldst := by
  rw [decode, hop]
  rfl

theorem decode_stst {v : Word32} (hop : opField v = 0x02) : decode v = decodeRow v .f0 .stst := by
  rw [decode, hop]
  rfl

/-- The block in DIN as a state (R150) has byte `r` of DINc in row `r` of column `c`. -/
theorem toState_blockOfRegs_din (s : State) : toState (blockOfRegs s.din) = Claims.dinMatrix s := by
  apply Matrix.ext_entries
  intro r c
  calc (toState (blockOfRegs s.din))[r][c]
    _ = s.din[c].extractLsb' (24 - 8 * r.val) 8 := toState_blockOfRegs_entry s.din r c r.isLt c.isLt
    _ = (Claims.dinMatrix s)[r][c] := by simp [Claims.dinMatrix]

/-- A state's block (R151) in four registers has column `j` in register `j`. -/
theorem regsOfBlock_toBytes_eq_columns (M : Matrix) : regsOfBlock (toBytes M) = Claims.columns M :=
  regsOfBlock_toBytes M

theorem effectOf_ldst (s : State) : effectOf .ldst s = { s with S := Claims.dinMatrix s } := by
  rw [← toState_blockOfRegs_din]
  rfl

theorem effectOf_stst (s : State) : effectOf .stst s = { s with dout := Claims.columns s.S } := by
  rw [← regsOfBlock_toBytes_eq_columns]
  rfl

/-- Settles O15: the two rows of the opcode map give the words, neither command has a check, and the pseudocode of each
is one assignment, of DIN's matrix to S and of the columns of S to DOUT. -/
theorem ldstAndStstMoveTheBlock : Obligations.LdstAndStstMoveTheBlock := by
  refine ⟨wordsOf_of_decodeRow .f0 (by decide) fun _ => decode_ldst, ?ldstAcceptance, fun s hbusy => ?ldstCompletion,
    wordsOf_of_decodeRow .f0 (by decide) fun _ => decode_stst, ?ststAcceptance, fun s hbusy => ?ststCompletion⟩
  case ldstAcceptance => exact alwaysAccepted_of_unchecked nofun rfl fun _ => rfl
  case ldstCompletion => rw [exec_eq_completed .ldst hbusy, effectOf_ldst]
  case ststAcceptance => exact alwaysAccepted_of_unchecked nofun rfl fun _ => rfl
  case ststCompletion => rw [exec_eq_completed .stst hbusy, effectOf_stst]

end Sys2Proof.Machine
end

section
/-! Proofs of the round transforms and their commands SUB, ISUB, SHR, ISHR, MIX, IMIX and ARK, and of the lookups SBOX
and ISBOX (43_round_transforms.md). -/

namespace Sys2Proof.Machine

/-! ### The words of a command without operands -/

/-- The rows of the opcode map whose format is F0 (R91, R93). -/
theorem decode_of_format_f0 {v : Word32} {i : Instr} (hformat : i.format = .f0) (hop : opField v = i.opcode) :
    decode v = decodeRow v .f0 i := by
  rw [decode, hop]
  cases i with
  | rnde | rndd | ark | ldrk | gfmul | gfdbl | sbox | isbox => cases hformat
  | _ => rfl

theorem wordsOf_of_format_f0 {i : Instr} (hformat : i.format = .f0) :
    Claims.WordsOf i.opcode 0xFFFFFFC0 (fun _ => i) :=
  wordsOf_of_decodeRow .f0 (by decide) fun _ => decode_of_format_f0 hformat

/-! ### SUB and ISUB -/

/-- Settles O19: neither command has an operand or a check, and the pseudocode of each is one assignment to S, of the
matrix whose bytes are the table's. -/
theorem subAndIsubReplaceEveryByte : Obligations.SubAndIsubReplaceEveryByte := by
  refine ⟨wordsOf_of_format_f0 (i := .sub) rfl, ?subAcceptance,
    wordsOf_of_format_f0 (i := .isub) rfl, ?isubAcceptance,
    fun s hbusy => ⟨subBytes s.S, invSubBytes s.S, fun r c => ⟨?subEntry, ?isubEntry⟩,
      exec_eq_completed .sub hbusy, exec_eq_completed .isub hbusy⟩⟩
  case subAcceptance | isubAcceptance => exact alwaysAccepted_of_unchecked nofun rfl fun _ => rfl
  case subEntry => exact subBytes_entry s.S r c r.isLt c.isLt
  case isubEntry => exact invSubBytes_entry s.S r c r.isLt c.isLt

/-! ### SBOX and ISBOX -/

theorem decode_sbox {v : Word32} (hop : opField v = 0x12) : decode v = decodeRow v .fa (.sbox (Claims.aOf v)) := by
  rw [decode, hop]
  rfl

theorem decode_isbox {v : Word32} (hop : opField v = 0x13) : decode v = decodeRow v .fa (.isbox (Claims.aOf v)) := by
  rw [decode, hop]
  rfl

/-- Settles O20: the two rows of the opcode map give the words, neither command has a check, and the pseudocode of each
is one assignment to GFRES. -/
theorem sboxAndIsboxLookUpOneByte : Obligations.SboxAndIsboxLookUpOneByte := by
  refine ⟨wordsOf_of_decodeRow .fa (by decide) fun _ => decode_sbox,
    wordsOf_of_decodeRow .fa (by decide) fun _ => decode_isbox, fun a => ⟨?sbox, ?isbox, ?completion⟩⟩
  case sbox | isbox => exact alwaysAccepted_of_unchecked nofun rfl fun _ => rfl
  case completion => exact fun s hbusy => ⟨exec_eq_completed (.sbox a) hbusy, exec_eq_completed (.isbox a) hbusy⟩

/-! ### SHR and ISHR -/

/-- `(c - r) mod 4` is `(c + 4 - r) mod 4`, which stays in the natural numbers (R175). -/
theorem invShiftRows_entry_ofNat (M : Matrix) (r c : Fin 4) :
    (invShiftRows M)[r][c] = M[r][Fin.ofNat 4 (c.val + 4 - r.val)] := by
  have hcol : 4 - r.val + c.val = c.val + 4 - r.val := by omega
  calc (invShiftRows M)[r][c]
    _ = M[r][Fin.ofNat 4 (4 - r.val + c.val)] := invShiftRows_entry M r c r.isLt c.isLt
    _ = M[r][Fin.ofNat 4 (c.val + 4 - r.val)] := by simp only [hcol]

/-- Settles O21: neither command has an operand or a check, and the pseudocode of each is one assignment to S, of the
matrix whose rows are rotated. -/
theorem shrAndIshrRotateTheRows : Obligations.ShrAndIshrRotateTheRows := by
  refine ⟨wordsOf_of_format_f0 (i := .shr) rfl, ?shrAcceptance,
    wordsOf_of_format_f0 (i := .ishr) rfl, ?ishrAcceptance,
    fun s hbusy => ⟨shiftRows s.S, invShiftRows s.S, fun r c => ⟨?shrEntry, ?ishrEntry⟩,
      exec_eq_completed .shr hbusy, exec_eq_completed .ishr hbusy⟩⟩
  case shrAcceptance | ishrAcceptance => exact alwaysAccepted_of_unchecked nofun rfl fun _ => rfl
  case shrEntry => exact shiftRows_entry s.S r c r.isLt c.isLt
  case ishrEntry => exact invShiftRows_entry_ofNat s.S r c

/-! ### MIX and IMIX -/

theorem getElem_select (p : Bool) (a : Byte) {i : Nat} (hi : i < 8) : (select p a)[i] = (p && a[i]) := by
  cases p <;> simp [select]

/-- 1 is the unit of the multiplication: its doublings are the powers of 2, so bit `i` of the sum is bit `i` of `b`. -/
@[simp] theorem one_multiply (b : Byte) : multiply 1#8 b = b := by
  have hsum : multiply 1#8 b = select (b.getLsbD 0) 0x01 ^^^ select (b.getLsbD 1) 0x02 ^^^ select (b.getLsbD 2) 0x04
      ^^^ select (b.getLsbD 3) 0x08 ^^^ select (b.getLsbD 4) 0x10 ^^^ select (b.getLsbD 5) 0x20
      ^^^ select (b.getLsbD 6) 0x40 ^^^ select (b.getLsbD 7) 0x80 := multiply_eq_sum 1#8 b
  apply BitVec.eq_of_getElem_eq
  intro i hi
  simp only [hsum, BitVec.getElem_xor, getElem_select]
  interval_cases i <;> simp

/-- The sum of R177 for one row of a mixing matrix. -/
def mixSum (a t : Quad) : Byte :=
  multiply a[0] t[0] ^^^ multiply a[1] t[1] ^^^ multiply a[2] t[2] ^^^ multiply a[3] t[3]

/-- Each column of a mixed state is made of the same column of the state alone (R177). -/
theorem col_mixWith (A M : Matrix) (c : Fin 4) :
    col (mixWith A M) c = #v[mixSum A[0] (col M c), mixSum A[1] (col M c), mixSum A[2] (col M c),
      mixSum A[3] (col M c)] := by
  simp [col, mixWith_entry, mixSum]

section Columns

variable {M : Matrix} {c : Fin 4} {s0 s1 s2 s3 : Byte} (hcol : col M c = #v[s0, s1, s2, s3])

include hcol

/-- R178's four equations. -/
theorem col_mixColumns : col (mixColumns M) c = #v[
    multiply 2 s0 ^^^ multiply 3 s1 ^^^ s2 ^^^ s3,
    s0 ^^^ multiply 2 s1 ^^^ multiply 3 s2 ^^^ s3,
    s0 ^^^ s1 ^^^ multiply 2 s2 ^^^ multiply 3 s3,
    multiply 3 s0 ^^^ s1 ^^^ s2 ^^^ multiply 2 s3] := by
  rw [mixColumns, col_mixWith, hcol]
  simp [mixSum, mixForward]

/-- R179's four equations. -/
theorem col_invMixColumns : col (invMixColumns M) c = #v[
    multiply 14 s0 ^^^ multiply 11 s1 ^^^ multiply 13 s2 ^^^ multiply 9 s3,
    multiply 9 s0 ^^^ multiply 14 s1 ^^^ multiply 11 s2 ^^^ multiply 13 s3,
    multiply 13 s0 ^^^ multiply 9 s1 ^^^ multiply 14 s2 ^^^ multiply 11 s3,
    multiply 11 s0 ^^^ multiply 13 s1 ^^^ multiply 9 s2 ^^^ multiply 14 s3] := by
  rw [invMixColumns, col_mixWith, hcol]
  simp [mixSum, mixInverse]

end Columns

/-- Settles O22: neither command has an operand or a check, and the pseudocode of each is one assignment to S, of the
matrix whose columns are the sums of R177 with the coefficients of `MF` and of `MI`. -/
theorem mixAndImixCombineTheColumns : Obligations.MixAndImixCombineTheColumns := by
  refine ⟨wordsOf_of_format_f0 (i := .mix) rfl, ?mixAcceptance,
    wordsOf_of_format_f0 (i := .imix) rfl, ?imixAcceptance,
    fun s hbusy => ⟨mixColumns s.S, invMixColumns s.S, fun c s0 s1 s2 s3 hcol => ⟨?mixColumn, ?imixColumn⟩,
      exec_eq_completed .mix hbusy, exec_eq_completed .imix hbusy⟩⟩
  case mixAcceptance | imixAcceptance => exact alwaysAccepted_of_unchecked nofun rfl fun _ => rfl
  case mixColumn => exact col_mixColumns hcol
  case imixColumn => exact col_invMixColumns hcol

/-! ### ARK -/

theorem decode_ark {v : Word32} (hop : opField v = 0x0E) : decode v = decodeRow v .fr (.ark (Claims.rndOf v)) := by
  rw [decode, hop]
  rfl

/-- Settles O23: ARK has the checks of a command that reads a round key, and its pseudocode assigns S the sum with the
round key, and RK the round key. -/
theorem arkInjectsTheRoundKey : Obligations.ArkInjectsTheRoundKey := by
  refine ⟨wordsOf_of_decodeRow .fr (by decide) fun _ => decode_ark, fun rnd => ⟨?acceptance, fun s hbusy =>
    ⟨addRoundKey s.S (roundKey s.W rnd), fun r c => ?entry, exec_eq_completed (.ark rnd) hbusy⟩⟩⟩
  case acceptance => exact keyedAcceptance_of_readsRoundKeys rfl fun _ => decide_eq_true_iff
  case entry => simp only [Fin.getElem_fin, addRoundKey_entry, roundKey_entry]

end Sys2Proof.Machine
end

section
/-! Proofs about the block sequencer and its commands RNDE, RNDD, ENCB and DECB (44_block_sequencer.md). -/

namespace Sys2Proof.Machine

/-! ### One round -/

theorem roundKeyOf_eq_roundKey (s : State) (rnd : Nat) : Claims.roundKeyOf s rnd = roundKey s.W rnd := rfl

section Rounds

variable (W : Vector Quad 60) {nr rnd : Nat} (M : Matrix)

theorem forwardRound_of_ne (h : rnd ≠ nr) :
    forwardRound W nr rnd M = addRoundKey (mixColumns (shiftRows (subBytes M))) (roundKey W rnd) := by
  rw [forwardRound, if_neg h]

theorem forwardRound_of_eq (h : rnd = nr) :
    forwardRound W nr rnd M = addRoundKey (shiftRows (subBytes M)) (roundKey W rnd) := by
  rw [forwardRound, if_pos h]

theorem inverseRound_of_pos (h : rnd > 0) :
    inverseRound W rnd M = invMixColumns (addRoundKey (invSubBytes (invShiftRows M)) (roundKey W rnd)) := by
  rw [inverseRound, if_neg h.ne']

theorem inverseRound_of_zero (h : rnd = 0) :
    inverseRound W rnd M = addRoundKey (invSubBytes (invShiftRows M)) (roundKey W rnd) := by
  rw [inverseRound, if_pos h]

end Rounds

/-! ### RNDE and RNDD -/

theorem decode_rnde {v : Word32} (hop : opField v = 0x06) : decode v = decodeRow v .fr (.rnde (Claims.rndOf v)) := by
  rw [decode, hop]
  rfl

theorem decode_rndd {v : Word32} (hop : opField v = 0x07) : decode v = decodeRow v .fr (.rndd (Claims.rndOf v)) := by
  rw [decode, hop]
  rfl

theorem effectOf_rnde (rnd : Nat) (s : State) : effectOf (.rnde rnd) s =
    { s with S := forwardRound s.W s.nr.toNat rnd s.S, RK := Claims.roundKeyOf s rnd } := rfl

theorem effectOf_rndd (rnd : Nat) (s : State) : effectOf (.rndd rnd) s =
    { s with S := inverseRound s.W rnd s.S, RK := Claims.roundKeyOf s rnd } := rfl

/-- Settles O24: RNDE has the checks of a command that reads a round key, and its pseudocode assigns S the forward
round, which has MixColumns except when `rnd` is NR. -/
theorem rndeIsOneForwardRound : Obligations.RndeIsOneForwardRound := by
  refine ⟨wordsOf_of_decodeRow .fr (by decide) fun _ => decode_rnde, fun rnd => ⟨?acceptance, fun s hbusy =>
    ⟨fun hinner => ?inner, fun hfinal => ?final⟩⟩⟩
  case acceptance => exact keyedAcceptance_of_readsRoundKeys rfl fun _ => decide_eq_true_iff
  case inner =>
    rw [exec_eq_completed (.rnde rnd) hbusy, effectOf_rnde, forwardRound_of_ne s.W s.S hinner, roundKeyOf_eq_roundKey]
  case final =>
    rw [exec_eq_completed (.rnde rnd) hbusy, effectOf_rnde, forwardRound_of_eq s.W s.S hfinal, roundKeyOf_eq_roundKey]

/-- Settles O25: RNDD has the checks of a command that reads a round key, and its pseudocode assigns S the inverse
round, which has InvMixColumns except when `rnd` is 0. -/
theorem rnddIsOneInverseRound : Obligations.RnddIsOneInverseRound := by
  refine ⟨wordsOf_of_decodeRow .fr (by decide) fun _ => decode_rndd, fun rnd => ⟨?acceptance, fun s hbusy =>
    ⟨fun hinner => ?inner, fun hlast => ?last⟩⟩⟩
  case acceptance => exact keyedAcceptance_of_readsRoundKeys rfl fun _ => decide_eq_true_iff
  case inner =>
    rw [exec_eq_completed (.rndd rnd) hbusy, effectOf_rndd, inverseRound_of_pos s.W s.S hinner, roundKeyOf_eq_roundKey]
  case last =>
    rw [exec_eq_completed (.rndd rnd) hbusy, effectOf_rndd, inverseRound_of_zero s.W s.S hlast, roundKeyOf_eq_roundKey]

/-! ### ENCB and DECB -/

theorem storeBlock_eq_columns (X K : Matrix) (s : State) :
    storeBlock X K s = { s with S := X, RK := K, dout := Claims.columns X } := by
  rw [← regsOfBlock_toBytes_eq_columns]
  rfl

/-- ENCB's pseudocode (R202) on the matrix of DIN. -/
theorem effectOf_encb (s : State) : effectOf .encb s =
    storeBlock (encryptState s.W s.nr.toNat (Claims.dinMatrix s)) (roundKey s.W s.nr.toNat) s := by
  rw [← toState_blockOfRegs_din]
  rfl

/-- DECB's pseudocode (R203) on the matrix of DIN. -/
theorem effectOf_decb (s : State) : effectOf .decb s =
    storeBlock (decryptState s.W s.nr.toNat (Claims.dinMatrix s)) (roundKey s.W 0) s := by
  rw [← toState_blockOfRegs_din]
  rfl

/-- One more forward round; only round NR has no MixColumns (R200, R202). -/
theorem forwardRounds_succ (W : Vector Quad 60) (nr n : Nat) (M : Matrix) : forwardRounds W nr (n + 1) M =
    if n + 1 = nr then addRoundKey (shiftRows (subBytes (forwardRounds W nr n M))) (roundKey W (n + 1))
    else addRoundKey (mixColumns (shiftRows (subBytes (forwardRounds W nr n M)))) (roundKey W (n + 1)) := by
  rw [forwardRounds]
  split
  · exact forwardRound_of_eq W _ ‹_›
  · exact forwardRound_of_ne W _ ‹_›

/-- Settles O26: the chain is the state after each number of forward rounds, NR of them being the encryption. -/
theorem encbEncryptsTheBlock : Obligations.EncbEncryptsTheBlock := by
  refine ⟨wordsOf_of_format_f0 (i := .encb) rfl, ?acceptance, fun s hbusy =>
    ⟨fun n => forwardRounds s.W s.nr.toNat n (addRoundKey (Claims.dinMatrix s) (roundKey s.W 0)),
      rfl, fun rnd hpos _ => ?round, ?completion⟩⟩
  case acceptance => exact keyedAcceptance_of_readsRoundKeys rfl fun _ => iff_of_false Bool.false_ne_true id
  case round =>
    obtain ⟨n, rfl⟩ := Nat.exists_eq_add_of_le' hpos
    exact forwardRounds_succ s.W s.nr.toNat n _
  case completion =>
    rw [exec_eq_completed .encb hbusy, effectOf_encb, storeBlock_eq_columns]
    rfl

/-- The inverse rounds `rnd + n - 1` down to `rnd` in order (R203): a run of them that need not reach round 0. -/
def inverseRoundsDownTo (W : Vector Quad 60) (rnd : Nat) : Nat → Matrix → Matrix
  | 0, M => M
  | n + 1, M => inverseRound W rnd (inverseRoundsDownTo W (rnd + 1) n M)

/-- R203's loop may be cut at any round: the rounds below `rnd` follow those down to `rnd`. -/
theorem inverseRounds_inverseRoundsDownTo (W : Vector Quad 60) (n : Nat) (M : Matrix) : ∀ rnd,
    inverseRounds W rnd (inverseRoundsDownTo W rnd n M) = inverseRounds W (rnd + n) M := by
  induction n with
  | zero => exact fun _ => rfl
  | succ n ih =>
    intro rnd
    calc inverseRounds W rnd (inverseRoundsDownTo W rnd (n + 1) M)
      _ = inverseRounds W (rnd + 1) (inverseRoundsDownTo W (rnd + 1) n M) := rfl
      _ = inverseRounds W (rnd + 1 + n) M := ih (rnd + 1)
      _ = inverseRounds W (rnd + (n + 1)) M := by rw [Nat.add_right_comm, Nat.add_assoc]

/-- From round 0 on the loop is whole. -/
theorem inverseRoundsDownTo_zero (W : Vector Quad 60) (n : Nat) (M : Matrix) :
    inverseRoundsDownTo W 0 n M = inverseRounds W n M := by
  have hcut := inverseRounds_inverseRoundsDownTo W n M 0
  rwa [Nat.zero_add] at hcut

/-- The state after inverse round `rnd` of a block of `nr` rounds that began as `M`; `M` itself for `rnd = nr`. -/
def afterInverseRound (W : Vector Quad 60) (nr : Nat) (M : Matrix) (rnd : Nat) : Matrix :=
  inverseRoundsDownTo W rnd (nr - rnd) M

theorem afterInverseRound_self (W : Vector Quad 60) (nr : Nat) (M : Matrix) : afterInverseRound W nr M nr = M := by
  rw [afterInverseRound, Nat.sub_self, inverseRoundsDownTo]

theorem afterInverseRound_zero (W : Vector Quad 60) (nr : Nat) (M : Matrix) :
    afterInverseRound W nr M 0 = inverseRounds W nr M :=
  inverseRoundsDownTo_zero W nr M

/-- The state after an inverse round comes from that after the round above; only round 0 has no InvMixColumns (R201,
R203). -/
theorem afterInverseRound_of_lt (W : Vector Quad 60) {nr rnd : Nat} (M : Matrix) (h : rnd < nr) :
    afterInverseRound W nr M rnd =
      if rnd = 0 then addRoundKey (invSubBytes (invShiftRows (afterInverseRound W nr M (rnd + 1)))) (roundKey W rnd)
      else invMixColumns
        (addRoundKey (invSubBytes (invShiftRows (afterInverseRound W nr M (rnd + 1)))) (roundKey W rnd)) := by
  have hround : afterInverseRound W nr M rnd = inverseRound W rnd (afterInverseRound W nr M (rnd + 1)) := by
    have hcount : nr - rnd = nr - (rnd + 1) + 1 := by omega
    rw [afterInverseRound, hcount, inverseRoundsDownTo, afterInverseRound]
  rw [hround]
  split
  · exact inverseRound_of_zero W _ ‹_›
  · exact inverseRound_of_pos W _ (Nat.pos_of_ne_zero ‹_›)

/-- Settles O27: the chain is the state after each inverse round, that after round 0 being the decryption. -/
theorem decbDecryptsTheBlock : Obligations.DecbDecryptsTheBlock := by
  refine ⟨wordsOf_of_format_f0 (i := .decb) rfl, ?acceptance, fun s hbusy =>
    ⟨afterInverseRound s.W s.nr.toNat (addRoundKey (Claims.dinMatrix s) (roundKey s.W s.nr.toNat)),
      afterInverseRound_self s.W s.nr.toNat _, fun rnd hlt => afterInverseRound_of_lt s.W _ hlt, ?completion⟩⟩
  case acceptance => exact keyedAcceptance_of_readsRoundKeys rfl fun _ => iff_of_false Bool.false_ne_true id
  case completion =>
    rw [exec_eq_completed .decb hbusy, effectOf_decb, storeBlock_eq_columns, afterInverseRound_zero]
    rfl

end Sys2Proof.Machine
end

section
/-! Proofs of the error mechanism (60_exceptions.md R220 to R228): which error is kept, and that an error changes nothing
else. -/

namespace Sys2Proof.Machine

/-! ### Recording an error -/

/-- The first error since the last clear is recorded. -/
theorem raiseError_of_no_err (c : ErrorCode) {s : State} (herr : s.err = false) :
    raiseError c s = { s with err := true, errcode := c } := by
  simp [raiseError, herr]

/-- A later error leaves the recorded one. -/
theorem raiseError_of_err (c : ErrorCode) {s : State} (herr : s.err = true) : raiseError c s = s := by
  rw [raiseError, if_pos herr, ← herr]

/-- While BUSY = 1 a guarded write is dropped and recorded (R73). -/
theorem unlessBusy_of_busy (write : State → State) {s : State} (hbusy : s.busy = true) :
    unlessBusy write s = raiseError .busy s :=
  if_pos hbusy

/-- Settles O13: the two cases of ERR; a failed command's DONE is by definition, and a dropped write only records. -/
theorem firstErrorIsKept : Obligations.FirstErrorIsKept := fun _ c =>
  ⟨raiseError_of_no_err c, raiseError_of_err c, rfl, fun write => unlessBusy_of_busy write⟩

/-! ### What an error leaves unchanged -/

/-- An accepted command completes, and neither its acceptance nor its effect touches the error flags (R97, R98). -/
theorem exec_accept_completes (i : Instr) (s : State) : ∃ u, exec i (accept i s) = .next u ∧
    u.busy = false ∧ u.done = true ∧ u.err = s.err ∧ u.errcode = s.errcode := by
  obtain ⟨-, -, herr, herrcode, -⟩ := effectOf_frame i (accept i s)
  exact ⟨complete (effectOf i (accept i s)), exec_busy i (accept i s) rfl, rfl, rfl, herr, herrcode⟩

/-- While BUSY = 1 a write to CMD, CFG, a KEY or a DIN register is dropped and recorded (R73, R224). -/
theorem writeRegister_dropped {off : Nat} {r : Register} (v : Word32) {s : State} (hreg : registerAt off = some r)
    (hoff : off = 0x00 ∨ off = 0x08 ∨ (0x20 ≤ off ∧ off ≤ 0x4C)) (hbusy : s.busy = true) :
    writeRegister r v s = .next (raiseError .busy s) := by
  have hat := registerAt_liesAt hreg
  cases r with
  | cmd => exact if_pos hbusy
  | cfg | key | din => exact congrArg Host.Outcome.next (unlessBusy_of_busy _ hbusy)
  | status | id | gfres | reserved | dout | state | rk =>
    simp only [Register.LiesAt] at hat
    omega

/-- Settles O12: an issued command either fails, which writes the error flags and DONE, or is latched and completes; a
write at one of the offsets reaches a register that drops it. -/
theorem errorsArePrecise : Obligations.ErrorsArePrecise := by
  refine ⟨fun i s hidle => ⟨issue i s, exec_idle i s hidle, ?command⟩, ?write⟩
  case command =>
    obtain ⟨-, hissue⟩ | ⟨-, hissue⟩ := issue_cases i s <;> rw [hissue]
    · exact .inr ⟨rfl, rfl, exec_accept_completes i s⟩
    · exact .inl ⟨hidle, rfl⟩
  case write =>
    intro s off v rest hbusy hreset hagenda h4 hoff
    obtain ⟨r, hreg⟩ := Option.isSome_iff_exists.mp ((registerAt_isSome off).mpr ⟨h4, by omega⟩)
    rw [step_write hagenda hreset hreg]
    exact writeRegister_dropped v hreg hoff hbusy

end Sys2Proof.Machine
end

section
/-! Proofs of the encoding (30_encoding.md R90 to R100): the decoder and the encoder are inverse to each other, and the
assembler writes one legal word. -/

namespace Sys2Proof

/-! ### A word and its fields (R90) -/

/-- A word as the number its fields make, the reserved bits among them. -/
theorem toNat_eq_fields (v : Word32) : v.toNat =
    (bField v).toNat * 2 ^ 24 + (aField v).toNat * 2 ^ 16 + (v.extractLsb' 12 4).toNat * 2 ^ 12
      + (rndField v).toNat * 2 ^ 8 + (v.extractLsb' 6 2).toNat * 2 ^ 6 + (opField v).toNat := by
  have hv := v.isLt
  simp only [opField, rndField, aField, bField, BitVec.extractLsb'_toNat, Nat.shiftRight_eq_div_pow]
  omega

/-- The fields of an assembled word, bit by bit. -/
theorem fields_assembleFields (op : BitVec 6) (rnd : BitVec 4) (a b : Byte) :
    opField (assembleFields op rnd a b) = op ∧ rndField (assembleFields op rnd a b) = rnd ∧
    aField (assembleFields op rnd a b) = a ∧ bField (assembleFields op rnd a b) = b ∧
    (assembleFields op rnd a b).extractLsb' 6 2 = 0 ∧ (assembleFields op rnd a b).extractLsb' 12 4 = 0 := by
  refine ⟨?op, ?rnd, ?a, ?b, ?low, ?high⟩
  all_goals
    apply BitVec.eq_of_getLsbD_eq
    intro i hi
    interval_cases i <;> simp [assembleFields, opField, rndField, aField, bField]

/-- R99's word as a number. -/
theorem toNat_assembleFields (op : BitVec 6) (rnd : BitVec 4) (a b : Byte) : (assembleFields op rnd a b).toNat =
    b.toNat * 2 ^ 24 + a.toNat * 2 ^ 16 + rnd.toNat * 2 ^ 8 + op.toNat := by
  obtain ⟨hop, hrnd, ha, hb, hlow, hhigh⟩ := fields_assembleFields op rnd a b
  rw [toNat_eq_fields, hop, hrnd, ha, hb, hlow, hhigh]
  simp

/-- A word whose reserved bits are 0 is assembled from its fields. -/
theorem assembleFields_of_reserved {v : Word32} (hlow : v.extractLsb' 6 2 = 0) (hhigh : v.extractLsb' 12 4 = 0) :
    assembleFields (opField v) (rndField v) (aField v) (bField v) = v := by
  apply BitVec.eq_of_toNat_eq
  rw [toNat_assembleFields, toNat_eq_fields v, hlow, hhigh]
  simp

/-! ### The command of a row and of a word's operand fields -/

/-- The command of the same opcode whose operands are those in the word's fields. -/
def Instr.withOperandsOf (v : Word32) : Instr → Instr
  | .rnde _ => .rnde (rndField v).toNat
  | .rndd _ => .rndd (rndField v).toNat
  | .ark _ => .ark (rndField v).toNat
  | .ldrk _ => .ldrk (rndField v).toNat
  | .gfmul _ _ => .gfmul (aField v) (bField v)
  | .gfdbl _ => .gfdbl (aField v)
  | .sbox _ => .sbox (aField v)
  | .isbox _ => .isbox (aField v)
  | i => i

/-- The word of an opcode and the operand fields of `v` that a format uses (R91). -/
def Format.assemble (op : BitVec 6) (v : Word32) : Format → Word32
  | .f0 => assembleFields op 0 0 0
  | .fr => assembleFields op (rndField v) 0 0
  | .fa => assembleFields op 0 (aField v) 0
  | .fab => assembleFields op 0 (aField v) (bField v)

/-- The decoder's row for an opcode, with the operands from the word's fields (R93, R96). -/
theorem decode_eq_decodeRow {v : Word32} {i : Instr} (hop : opField v = i.opcode) :
    decode v = decodeRow v i.format (i.withOperandsOf v) := by
  rw [decode, hop]
  cases i <;> rfl

theorem encode_withOperandsOf (i : Instr) (v : Word32) :
    encode (i.withOperandsOf v) = i.format.assemble i.opcode v := by
  cases i <;> simp [Instr.withOperandsOf, encode, Instr.opcode, Instr.format, Format.assemble]

/-- A word with only its opcode in the bits its format fixes is assembled from the fields its format uses (R91). -/
theorem assemble_of_fixedBits {v : Word32} {F : Format} (h : v &&& F.mask = (opField v).setWidth 32) :
    F.assemble (opField v) v = v := by
  obtain ⟨hlow, hhigh, hunused⟩ := (fixedBits_iff_fields v F).mp h
  have hword := assembleFields_of_reserved hlow hhigh
  cases F <;> simp only [Format.UnusedFieldNonzero, not_or, ne_eq, not_not, rndOf_eq_zero_iff] at hunused
  case f0 =>
    obtain ⟨hrnd, ha, hb⟩ : rndField v = 0 ∧ aField v = 0 ∧ bField v = 0 := hunused
    rwa [hrnd, ha, hb] at hword
  case fr =>
    obtain ⟨ha, hb⟩ : aField v = 0 ∧ bField v = 0 := hunused
    rwa [ha, hb] at hword
  case fa =>
    obtain ⟨hrnd, hb⟩ : rndField v = 0 ∧ bField v = 0 := hunused
    rwa [hrnd, hb] at hword
  case fab =>
    have hrnd : rndField v = 0 := hunused
    rwa [hrnd] at hword

/-! ### Decoding an encoded command -/

theorem opField_encode (i : Instr) : opField (encode i) = i.opcode := by
  cases i <;> exact (fields_assembleFields _ _ _ _).1

/-- The word of a command holds its operands in their fields, if its round index fits. -/
theorem withOperandsOf_encode {i : Instr} (hwf : i.wf = true) : i.withOperandsOf (encode i) = i := by
  cases i with
  | rnde rnd | rndd rnd | ark rnd | ldrk rnd =>
    have hlt : rnd < 16 := of_decide_eq_true hwf
    simp [Instr.withOperandsOf, encode, fields_assembleFields, Nat.mod_eq_of_lt hlt]
  | gfmul | gfdbl | sbox | isbox => simp [Instr.withOperandsOf, encode, fields_assembleFields]
  | _ => rfl

/-- The bits that the format of a command fixes hold its opcode alone in its word (R91, R99). -/
theorem encode_fixedBits (i : Instr) : encode i &&& i.format.mask = (opField (encode i)).setWidth 32 := by
  rw [opField_encode]
  cases i with
  | rnde | rndd | ark | ldrk => exact Laws.fixedBits_round _ _
  | gfmul => exact Laws.fixedBits_bytes _ _ _
  | gfdbl | sbox | isbox => exact Laws.fixedBits_byte _ _
  | _ => exact Laws.fixedBits_none _

/-- Settles O2: the decoder reads the row of the command's opcode, the row accepts the word, and the word's fields hold
the command's operands. -/
theorem decodeOfEncodeIsTheCommand : Obligations.DecodeOfEncodeIsTheCommand := by
  intro i hwf
  rw [decode_eq_decodeRow (opField_encode i), decodeRow, if_pos (encode_fixedBits i), withOperandsOf_encode hwf]

/-- Settles O3: the command of a row that accepts has the word's own operands, and the word is assembled from these. -/
theorem encodeOfDecodeIsTheWord : Obligations.EncodeOfDecodeIsTheWord := by
  intro v i hdecode
  refine ⟨decode_wf hdecode, ?_⟩
  obtain ⟨-, herror⟩ | ⟨F, j, hrow, rfl, hop⟩ := decode_cases v
  · rw [hdecode] at herror
    cases herror
  · obtain ⟨hi, hbits⟩ := decodeRow_ok ((decode_eq_decodeRow hop.symm).symm.trans hdecode)
    rw [hi, encode_withOperandsOf, hop, assemble_of_fixedBits hbits]

/-! ### The assembler (R99) -/

theorem plainLines_toUpper : ∀ p ∈ Claims.plainLines, p.1.toUpper = p.1 := by
  simp [Claims.plainLines, toUpper_eq_self_iff]

theorem roundLines_toUpper : ∀ p ∈ Claims.roundLines, p.1.toUpper = p.1 := by
  simp [Claims.roundLines, toUpper_eq_self_iff]

theorem assemble_of_plainLine {p : String × Instr} (hp : p ∈ Claims.plainLines) {m : String}
    (hupper : m.toUpper = p.1) : assemble ⟨m, []⟩ = some p.2 := by
  simp only [Claims.plainLines, List.mem_cons, List.not_mem_nil, or_false] at hp
  rw [assemble, hupper]
  obtain rfl | rfl | rfl | rfl | rfl | rfl | rfl | rfl | rfl | rfl | rfl | rfl | rfl := hp <;> rfl

theorem assemble_of_roundLine {p : String × (Nat → Instr)} (hp : p ∈ Claims.roundLines) {m : String}
    (hupper : m.toUpper = p.1) (r : Nat) : assemble ⟨m, [r]⟩ = (asmRound r).map p.2 := by
  simp only [Claims.roundLines, List.mem_cons, List.not_mem_nil, or_false] at hp
  rw [assemble, hupper]
  obtain rfl | rfl | rfl | rfl := hp <;> rfl

/-- Only the lines of R93 and R100 assemble, each to its command. -/
theorem assemble_cases {l : AsmLine} {i : Instr} (h : assemble l = some i) :
    (∃ p ∈ Claims.plainLines, l.mnemonic.toUpper = p.1 ∧ l.operands = [] ∧ i = p.2) ∨
    (∃ p ∈ Claims.roundLines, l.mnemonic.toUpper = p.1 ∧ ∃ r, l.operands = [r] ∧ (asmRound r).map p.2 = some i) ∨
    (∃ p ∈ Claims.byteLines, l.mnemonic.toUpper = p.1 ∧ ∃ a, l.operands = [a] ∧ (asmByte a).map p.2 = some i) ∨
    (l.mnemonic.toUpper = "GFMUL" ∧ ∃ a b, l.operands = [a, b] ∧ ∃ x y, i = .gfmul x y) := by
  unfold assemble at h
  split at h <;> rename_i hupper hops
  case h_28 => cases h
  case h_17 a b =>
    obtain ⟨x, -, hy⟩ := Option.bind_eq_some_iff.mp h
    obtain ⟨y, -, rfl⟩ := Option.map_eq_some_iff.mp hy
    exact .inr (.inr (.inr ⟨hupper, a, b, hops, x, y, rfl⟩))
  case h_7 | h_8 | h_15 | h_16 =>
    exact .inr (.inl ⟨(_, _), by simp [Claims.roundLines], hupper, _, hops, h⟩)
  case h_18 | h_19 | h_20 | h_21 | h_22 | h_23 | h_24 | h_25 | h_26 =>
    exact .inr (.inr (.inl ⟨(_, _), by simp [Claims.byteLines], hupper, _, hops, h⟩))
  all_goals exact .inl ⟨(_, _), by simp [Claims.plainLines], hupper, hops, (Option.some.inj h).symm⟩

theorem wf_of_plainLine : ∀ p ∈ Claims.plainLines, p.2.wf = true := by
  simp [Claims.plainLines, Instr.wf]

theorem wf_of_byteLine (x : Byte) : ∀ p ∈ Claims.byteLines, (p.2 x).wf = true := by
  simp [Claims.byteLines, Instr.wf]

theorem wf_of_roundLine {r : Nat} (hr : r < 16) : ∀ p ∈ Claims.roundLines, (p.2 r).wf = true := by
  simp [Claims.roundLines, Instr.wf, hr]

/-- Only a well-formed command assembles: the assembler rejects a round index above 15. -/
theorem wf_of_assemble {l : AsmLine} {i : Instr} (h : assemble l = some i) : i.wf = true := by
  obtain ⟨p, hp, -, -, rfl⟩ | ⟨p, hp, -, r, -, hi⟩ | ⟨p, hp, -, a, -, hi⟩ | ⟨-, a, b, -, x, y, rfl⟩ := assemble_cases h
  · exact wf_of_plainLine p hp
  · obtain ⟨n, hn, rfl⟩ := Option.map_eq_some_iff.mp hi
    unfold asmRound at hn
    split at hn <;> cases hn
    exact wf_of_roundLine (Nat.lt_succ_of_le ‹_›) p hp
  · obtain ⟨x, -, rfl⟩ := Option.map_eq_some_iff.mp hi
    exact wf_of_byteLine x p hp
  · rfl

/-- R99's number of a well-formed command's word. -/
theorem toNat_encode {i : Instr} (hwf : i.wf = true) : (encode i).toNat = Claims.wordOf i := by
  cases i with
  | rnde rnd | rndd rnd | ark rnd | ldrk rnd =>
    have hlt : rnd < 16 := of_decide_eq_true hwf
    simp [encode, toNat_assembleFields, Instr.opcode, Claims.wordOf, Nat.mod_eq_of_lt hlt]
  | _ => simp [encode, toNat_assembleFields, Instr.opcode, Claims.wordOf]

/-- Settles O5: the lines as the assembler reads them, and for what assembles the inversion of the assembler, R99's
number and the decoder on an encoded command. -/
theorem assemblerWritesOneLegalWord : Obligations.AssemblerWritesOneLegalWord := by
  refine ⟨fun p hp => assemble_of_plainLine hp (plainLines_toUpper p hp), fun p hp r => ?round, fun p hp a => ?byte,
    fun a b => ?gfmul, fun m m' ops hcase => ?anyCase, fun l i hline => ⟨?lines, ?word⟩⟩
  case round =>
    rw [assemble_of_roundLine hp (roundLines_toUpper p hp), asmRound]
    split <;> rfl
  case byte =>
    rw [assemble_byteLine a p hp, asmByte]
    split <;> rfl
  case gfmul =>
    rw [assemble_of_gfmul (by simp [toUpper_eq_self_iff]), asmByte, asmByte]
    by_cases ha : a ≤ 255 <;> by_cases hb : b ≤ 255 <;> simp [ha, hb]
  case anyCase => simp only [assemble, hcase]
  case lines =>
    obtain ⟨p, hp, hm, hops, -⟩ | ⟨p, hp, hm, r, hops, -⟩ | ⟨p, hp, hm, a, hops, -⟩ | ⟨hm, a, b, hops, -⟩ :=
      assemble_cases hline
    · exact .inl ⟨p, hp, hm, hops⟩
    · exact .inr (.inl ⟨p, hp, hm, by rw [hops]; rfl⟩)
    · exact .inr (.inr (.inl ⟨p, hp, hm, by rw [hops]; rfl⟩))
    · exact .inr (.inr (.inr ⟨hm, by rw [hops]; rfl⟩))
  case word =>
    have hwf := wf_of_assemble hline
    exact ⟨hwf, toNat_encode hwf, decodeOfEncodeIsTheCommand i hwf⟩

/-- Settles O1: each word is evaluated. -/
theorem specWordsDecode : Obligations.SpecWordsDecode := by
  refine ⟨rfl, rfl, rfl, rfl, rfl, rfl, rfl, rfl, rfl, rfl, rfl, rfl, rfl, rfl⟩

end Sys2Proof
end

section
/-! Proofs of the invariant (10_state.md section 3, 70_reset_and_hazards.md section 3): every step keeps it, one lemma
per named update of the state. -/

namespace Sys2Proof.Machine

/-! ### The invariant under each update of the state -/

namespace Invariant

variable {s : State}

/-- The events to come are no part of the invariant. -/
theorem withAgenda (h : Invariant s) (events : List Event) : Invariant { s with agenda := events } where
  __ := h

theorem deliverRead (h : Invariant s) (r : Register) : Invariant (deliverRead r s) where
  __ := h

theorem releaseReset (h : Invariant s) : Invariant (releaseReset s) where
  __ := h
  resetIdle := nofun

/-- Recording an error keeps ERR and ERRCODE together. -/
theorem raiseError (h : Invariant s) {c : ErrorCode} (hc : c ≠ .noError) : Invariant (raiseError c s) where
  __ := h
  errcodeMeansErr := by
    have := h.errcodeMeansErr
    cases herr : s.err <;> simp_all

theorem writeStatus (h : Invariant s) (v : Word32) : Invariant (writeStatus v s) where
  __ := h
  busyNotDone := fun hbusy => by simp [h.busyNotDone hbusy]
  errcodeMeansErr := by
    have := h.errcodeMeansErr
    cases hv : v.getLsbD 2 <;> simp_all

theorem pend_eq_none (h : Invariant s) (hidle : s.busy = false) : s.pend = none := by
  simpa [hidle] using h.pendValid

/-- A change of KS clears KEY_VALID and NR, so a key that stays valid is still the expansion. -/
theorem writeCfg (h : Invariant s) (hidle : s.busy = false) (v : Word32) : Invariant (writeCfg v s) where
  __ := h
  pendPasses := by simp [h.pend_eq_none hidle]
  noKey := by
    by_cases hks : v.extractLsb' 0 2 = s.ks <;> simp [hks]
    exact h.noKey
  keyIsExpansion := by
    by_cases hks : v.extractLsb' 0 2 = s.ks <;> simp [hks]
    exact h.keyIsExpansion

theorem writeKey (h : Invariant s) (hidle : s.busy = false) (k : Fin 8) (v : Word32) : Invariant (writeKey k v s) where
  __ := h
  pendPasses := by simp [h.pend_eq_none hidle]
  noKey := fun _ => rfl
  keyIsExpansion := nofun

theorem writeDin (h : Invariant s) (j : Fin 4) (v : Word32) : Invariant (writeDin j v s) where
  __ := h

theorem failCommand (h : Invariant s) (hidle : s.busy = false) {c : ErrorCode} (hc : c ≠ .noError) :
    Invariant (failCommand c s) where
  __ := h.raiseError hc
  busyNotDone := by simp [hidle]

theorem accept (h : Invariant s) (hreset : s.resetLine = false) {i : Instr} (hwf : i.wf = true)
    (hcheck : checkCommand i s = .noError) : Invariant (accept i s) where
  __ := h
  pendValid := rfl
  pendPasses := by
    rintro _ ⟨⟩
    exact ⟨hwf, hcheck⟩
  busyNotDone := fun _ => rfl
  resetIdle := by simp [hreset]

end Invariant

/-- A block without a command, an error or a key meets the invariant. -/
theorem Invariant.of_blank {s : State} (hidle : s.busy = false) (hpend : s.pend = none) (herr : s.err = false)
    (hcode : s.errcode = .noError) (hkey : s.keyValid = false) (hnr : s.nr = 0) : Invariant s where
  pendValid := by simp [hidle, hpend]
  pendPasses := by simp [hpend]
  busyNotDone := by simp [hidle]
  errcodeMeansErr := by simp [herr, hcode]
  noKey := fun _ => hnr
  keyIsExpansion := by simp [hkey]
  resetIdle := fun _ => hidle

/-- Settles O54: after reset there is no command, no error and no key. -/
theorem invariantHoldsAtReset : Obligations.InvariantHoldsAtReset := Invariant.of_blank rfl rfl rfl rfl rfl rfl

theorem Invariant.assertReset (s : State) : Invariant (assertReset s) := Invariant.of_blank rfl rfl rfl rfl rfl rfl

/-! ### The invariant under a completion -/

theorem keySizeRefused_of_check {s : State} (h : checkCommand .expand s = .noError) : keySizeRefused s.ks = false := by
  rw [Bool.eq_false_iff]
  intro hrefused
  simp [checkCommand, hrefused] at h

theorem expandKey_idempotent {ks : BitVec 2} {Nr Nk : Nat} (hsize : keySize ks = some (Nr, Nk)) (key : Vector Word32 8)
    (W : Vector Quad 60) : expandKey key Nr Nk (expandKey key Nr Nk W) = expandKey key Nr Nk W := by
  obtain ⟨hpos, -, hfit⟩ := keySize_bounds hsize
  exact expandWords_idempotent key Nk hpos _ hfit W _ le_rfl

section Completion

variable {s : State} (h : Invariant s)

include h

/-- The end of a completion whose pseudocode leaves the error flags and the key. -/
theorem Invariant.complete_of_frame {t : State} (herr : t.err = s.err) (hcode : t.errcode = s.errcode)
    (hvalid : t.keyValid = s.keyValid) (hnr : t.nr = s.nr) (hks : t.ks = s.ks) (hkey : t.key = s.key)
    (hW : t.W = s.W) : Invariant (complete t) where
  pendValid := rfl
  pendPasses := nofun
  busyNotDone := nofun
  errcodeMeansErr := by
    simpa [herr, hcode] using h.errcodeMeansErr
  noKey := by
    simpa [hvalid, hnr] using h.noKey
  keyIsExpansion := by
    simpa [hvalid, hnr, hks, hkey, hW] using h.keyIsExpansion
  resetIdle := fun _ => rfl

/-- EXPAND makes the key valid, and what it stores is its own expansion (R132, R138). -/
theorem Invariant.complete_setSchedule (hcheck : checkCommand .expand s = .noError) {Nr Nk : Nat}
    (hsize : keySize s.ks = some (Nr, Nk)) :
    Invariant (complete (setSchedule (expandKey s.key Nr Nk s.W) (BitVec.ofNat 4 Nr) s)) where
  pendValid := rfl
  pendPasses := nofun
  busyNotDone := nofun
  errcodeMeansErr := h.errcodeMeansErr
  noKey := nofun
  keyIsExpansion := fun _ =>
    ⟨Nr, Nk, hsize, keySizeRefused_of_check hcheck, rfl, expandKey_idempotent hsize s.key s.W⟩
  resetIdle := fun _ => rfl

theorem Invariant.complete_effectOf {i : Instr} (hpend : s.pend = some i) : Invariant (complete (effectOf i s)) := by
  by_cases hi : i = .expand
  · subst hi
    obtain ⟨-, hcheck⟩ := h.pendPasses _ hpend
    obtain ⟨Nr, Nk, hsize, heffect⟩ | ⟨-, heffect⟩ := expandEffect_cases s <;> rw [effectOf, heffect]
    · exact h.complete_setSchedule hcheck hsize
    · exact h.complete_of_frame rfl rfl rfl rfl rfl rfl rfl
  · obtain ⟨-, -, herr, hcode, hks, -, hkey, -⟩ := effectOf_frame i s
    obtain ⟨hW, hvalid, hnr⟩ := effectOf_schedule i s hi
    exact h.complete_of_frame herr hcode hvalid hnr hks hkey hW

/-! ### Every step -/

theorem Invariant.stepResult {e : Option Event} {t : State} (hstep : StepResult s e t) : Invariant t := by
  cases hstep with
  | idle | ignored => exact h
  | completed i _ _ hpend => exact h.complete_effectOf hpend
  | read off r => exact h.deliverRead r
  | acknowledged off v => exact h.writeStatus v
  | dropped => exact h.raiseError (by decide)
  | cfg off v _ hidle => exact h.writeCfg hidle v
  | key off k v _ hidle => exact h.writeKey hidle k v
  | din off j v => exact h.writeDin j v
  | illegal _ _ _ hidle => exact h.failCommand hidle (by decide)
  | failed _ _ i _ hidle hfail => exact h.failCommand hidle hfail
  | accepted _ _ i hreset _ hwf hpass => exact h.accept hreset hwf hpass
  | reset => exact .assertReset s
  | released => exact h.releaseReset

end Completion

/-- Settles O55: the event that happens leaves the agenda, which is no part of the invariant, and each thing a step can
do keeps it. -/
theorem everyStepKeepsTheInvariant : Obligations.EveryStepKeepsTheInvariant :=
  fun _ _ hinv hstep => (hinv.withAgenda _).stepResult (step_next hstep)

end Sys2Proof.Machine
end

section
/-! Proofs about one step: the issue and the completion of a command (30_encoding.md R97, R98), the host held at an
access (20_memory.md R74), a change of the key (70_reset_and_hazards.md R258), what a pending command and the results are
safe from, and reset (R250). -/

namespace Sys2Proof.Machine

/-! ### The issue and the completion of a command -/

/-- Settles O7: the CMD write issues its word (R97), and the issue of a word that decodes is the command's meaning. -/
theorem stepIssuesTheDecodedCommand : Obligations.StepIssuesTheDecodedCommand := by
  intro s v i rest hdecode hidle hreset hagenda
  rw [step_cmdWrite_idle hagenda hreset hidle, issueWord, hdecode]

theorem engineStep_busy {s : State} {i : Instr} (hbusy : s.busy = true) (hpend : s.pend = some i) :
    engineStep s = exec i s := by
  simp [engineStep, hbusy, hpend]

theorem engineStep_idle {s : State} (hidle : s.busy = false) : engineStep s = .next s := by
  simp [engineStep, hidle]

/-- Settles O8: at an engine slot and with no event left the step is the engine's. -/
theorem stepCompletesThePendingCommand : Obligations.StepCompletesThePendingCommand := by
  rintro s i rest hbusy hpend (hagenda | ⟨hagenda, rfl⟩)
  · rw [step_engine hagenda]
    exact engineStep_busy hbusy hpend
  · rw [step_nil hagenda, ← hagenda]
    exact engineStep_busy hbusy hpend

/-- Settles O9: the same steps of an idle block, whose engine has nothing to do. -/
theorem idleBlockKeepsItsState : Obligations.IdleBlockKeepsItsState := by
  refine fun s rest hidle => ⟨fun hagenda => ?nothingLeft, fun hagenda => ?engineSlot⟩
  case nothingLeft => rw [step_nil hagenda, engineStep_idle hidle]
  case engineSlot =>
    rw [step_engine hagenda]
    exact engineStep_idle hidle

theorem ok_of_toOption_eq_some {ε α : Type} {x : Except ε α} {a : α} (h : x.toOption = some a) : x = .ok a := by
  cases x with
  | ok b => exact congrArg Except.ok (Option.some.inj h)
  | error e => cases h

/-- Settles O10: the placed word is the CMD write of O7, to a block made idle and out of reset. -/
theorem placedWordRunsNext : Obligations.PlacedWordRunsNext :=
  fun s w i _ hdecode => stepIssuesTheDecodedCommand (s.withFetchWord 32 w) _ i s.agenda
    (ok_of_toOption_eq_some hdecode) rfl rfl rfl

/-- Settles O56: the engine slot is the completion of the pending command, whose pseudocode leaves the error flags and
the agenda. -/
theorem completionNeverFails : Obligations.CompletionNeverFails := by
  intro s i rest hbusy hpend hagenda
  obtain ⟨-, -, herr, hcode, -, -, -, -, -, -, hleft, -⟩ := effectOf_frame i { s with agenda := rest }
  refine ⟨complete (effectOf i { s with agenda := rest }), ?_, rfl, rfl, rfl, herr, hcode, hleft⟩
  rw [stepCompletesThePendingCommand s i rest hbusy hpend (.inl hagenda)]
  exact exec_busy i { s with agenda := rest } hbusy

/-! ### A host held at an access -/

theorem holdsHost_of_noStepAt {e : Event} {off width : Nat} (h : Claims.NoStepAt e off width) : e.holdsHost = true := by
  obtain ⟨rfl | ⟨v, rfl⟩, hplace⟩ := h
  · exact holdsHost_access (v := 0) (.inl rfl) hplace
  · exact holdsHost_access (.inr rfl) hplace

/-- The machine stops at an access without a step as the access's place and width say. -/
theorem applyEvent_of_noStepAt {e : Event} {off width : Nat} (h : Claims.NoStepAt e off width) (s : State) :
    applyEvent e s = if off ≥ 0x80 then .refused .outsideWindow else .fault .stuckAccess := by
  obtain ⟨rfl | ⟨v, rfl⟩, hplace⟩ := h <;>
    simp only [applyEvent, hostRead, hostWrite, whenAdmitted, accessTarget_error hplace]

theorem holdsHost_of_not_isHost {e : Event} (h : e.isHost = false) : e.holdsHost = false := by
  cases e with
  | read | write => cases h
  | engine | resetAssert | resetRelease => rfl

/-- With the host held and only host events to come, the step is the engine's, or the stop of an idle block. -/
theorem step_stuck {s : State} {e : Event} {later : List Event} (hagenda : s.agenda = e :: later)
    (hheld : e.holdsHost = true) (hlater : ∀ f ∈ later, f.isHost = true) :
    step s = if s.busy then engineStep s else atRest s :=
  step_quiet (by rw [hagenda, nextEvent_stuck hheld hlater])

/-- Settles O46: no event can happen, and the idle block stops at the access. -/
theorem otherAccessesGetNoStep : Obligations.OtherAccessesGetNoStep := by
  intro s e off width later hagenda hnostep hlater hidle
  rw [step_stuck hagenda (holdsHost_of_noStepAt hnostep) hlater, hidle, if_neg Bool.false_ne_true, atRest, hagenda]
  exact applyEvent_of_noStepAt hnostep s

/-- Settles O47: behind the held host the first event of another agent happens, which it also does when it stands first,
and without one the engine completes the pending command. -/
theorem stuckHostLeavesTheOthersRunning : Obligations.StuckHostLeavesTheOthersRunning := by
  intro s e off width hnostep
  have hheld := holdsHost_of_noStepAt hnostep
  refine ⟨fun before after f hagenda hbefore hf => ?others, fun later i hagenda hlater hbusy hpend => ?engine⟩
  case others =>
    rw [step_held hagenda hheld hbefore hf, step_event (nextEvent_first _ (holdsHost_of_not_isHost hf))]
  case engine => rw [step_stuck hagenda hheld hlater, if_pos hbusy, engineStep_busy hbusy hpend]

/-! ### A change of the key -/

theorem step_keyWrite {s : State} {off : Nat} {v : Word32} {rest : List Event} (hidle : s.busy = false)
    (hreset : s.resetLine = false) (hagenda : s.agenda = .write off 4 v :: rest) (h4 : off % 4 = 0)
    (hlow : 0x20 ≤ off) (hhigh : off ≤ 0x3C) : ∃ k, step s = .next (writeKey k v { s with agenda := rest }) := by
  obtain ⟨r, hreg⟩ := Option.isSome_iff_exists.mp ((registerAt_isSome off).mpr ⟨h4, by omega⟩)
  have hat := registerAt_liesAt hreg
  cases r with
  | key k => exact ⟨k, by rw [step_write hagenda hreset hreg]; simp [writeRegister, unlessBusy, hidle]⟩
  | _ =>
    simp only [Register.LiesAt] at hat
    omega

theorem step_cfgWrite {s : State} {v : Word32} {rest : List Event} (hidle : s.busy = false)
    (hreset : s.resetLine = false) (hagenda : s.agenda = .write 0x08 4 v :: rest) :
    step s = .next (writeCfg v { s with agenda := rest }) := by
  rw [step_write hagenda hreset (r := .cfg) rfl]
  simp [writeRegister, unlessBusy, hidle]

theorem exec_keyNotReady {i : Instr} {t : State} (hkey : Claims.readsRoundKeys i = true) (hidle : t.busy = false)
    (hvalid : t.keyValid = false) : exec i t = Claims.Failed .keyNotReady t :=
  (keyedAcceptance_of_readsRoundKeys hkey (fun _ => Iff.rfl) t hidle).1 hvalid

/-- Settles O48: the write is a KEY or a CFG write to an idle block; each clears KEY_VALID and NR or, with KS kept,
leaves both. -/
theorem keyChangeInvalidatesTheKey : Obligations.KeyChangeInvalidatesTheKey := by
  intro s off v rest hidle hreset hagenda h4
  refine ⟨?change, ?keep⟩
  case change =>
    rintro (⟨hlow, hhigh⟩ | ⟨rfl, hks⟩)
    · obtain ⟨k, hstep⟩ := step_keyWrite hidle hreset hagenda h4 hlow hhigh
      exact ⟨_, hstep, rfl, rfl, rfl, rfl, rfl, rfl, fun i hkey => exec_keyNotReady hkey hidle rfl⟩
    · have hvalid : (writeCfg v { s with agenda := rest }).keyValid = false := by simp [hks]
      exact ⟨_, step_cfgWrite hidle hreset hagenda, hvalid, by simp [hks], rfl, rfl, rfl, rfl,
        fun i hkey => exec_keyNotReady hkey hidle hvalid⟩
  case keep =>
    rintro rfl hks
    exact ⟨_, step_cfgWrite hidle hreset hagenda, by simp [hks], by simp [hks]⟩

/-! ### A pending command, and the writers of the results -/

/-- Settles O49: with BUSY = 1 a step that is no completion and no reset is a read, an acknowledgement, a write that is
ignored or dropped, or the release of reset. -/
theorem pendingCommandIsUndisturbed : Obligations.PendingCommandIsUndisturbed := by
  intro s t e hbusy hnext hengine hassert hstep
  have hresult := step_next hstep
  rw [hnext] at hresult
  have hnoSlot : ¬ EngineSlot (some e) := by simp [EngineSlot, hengine]
  cases hresult with
  | idle hslot | completed _ hslot => exact absurd hslot hnoSlot
  | reset => exact absurd rfl hassert
  | cfg _ _ _ hidle | key _ _ _ _ hidle | din _ _ _ _ hidle | illegal _ _ _ hidle | failed _ _ _ _ hidle
  | accepted _ _ _ _ hidle => exact absurd (hbusy.symm.trans hidle) (by decide)
  | read | ignored | acknowledged | dropped | released =>
    exact ⟨hbusy, rfl, rfl, rfl, rfl, rfl, rfl, rfl, rfl, rfl, rfl, rfl, rfl⟩

/-- Over a step that is no reset the result registers are as before, and no key becomes valid, unless the step completes
a command, whose pseudocode then gives them. -/
theorem step_results {s t : State} (hstep : step s = .next t) (hreset : ¬ Claims.Resets s) :
    (t.gfres = s.gfres ∧ t.W = s.W ∧ (t.keyValid = true → s.keyValid = true) ∧ t.dout = s.dout ∧ t.RK = s.RK ∧
      t.S = s.S) ∨
    ∃ i, Claims.Completes s i ∧ t = complete (effectOf i (afterTake s)) := by
  have hresult := step_next hstep
  generalize hnext : (nextEvent s.agenda).1 = e at hresult
  cases hresult with
  | completed i hslot hbusy hpend => exact .inr ⟨i, ⟨hbusy, hpend, hnext ▸ hslot⟩, rfl⟩
  | reset => exact absurd hnext hreset
  | cfg => exact .inl ⟨rfl, rfl, by simp +contextual [afterTake], rfl, rfl, rfl⟩
  | key => exact .inl ⟨rfl, rfl, nofun, rfl, rfl, rfl⟩
  | _ => exact .inl ⟨rfl, rfl, id, rfl, rfl, rfl⟩

section Writers

variable {i : Instr} {s : State}

/-- Of the results EXPAND's pseudocode writes only `W` (R132). -/
theorem expandEffect_results (s : State) : (expandEffect s).gfres = s.gfres ∧ (expandEffect s).dout = s.dout ∧
    (expandEffect s).RK = s.RK ∧ (expandEffect s).S = s.S := by
  obtain ⟨Nr, Nk, -, heffect⟩ | ⟨-, heffect⟩ := expandEffect_cases s <;> simp [heffect]

/-- The writers of GFRES (R28). -/
theorem effectOf_writes_gfres (h : (effectOf i s).gfres ≠ s.gfres) :
    (∃ a b, i = .gfmul a b) ∨ (∃ a, i = .gfdbl a ∨ i = .sbox a ∨ i = .isbox a) := by
  cases i with
  | expand =>
    obtain ⟨hgfres, -, -, -⟩ := expandEffect_results s
    exact absurd hgfres h
  | gfmul a b => exact .inl ⟨a, b, rfl⟩
  | gfdbl a | sbox a | isbox a => exact .inr ⟨a, by simp⟩
  | _ => exact absurd rfl h

/-- The writer of `W`, which alone makes a key valid (R36, R37). -/
theorem effectOf_writes_schedule
    (h : (effectOf i s).W ≠ s.W ∨ ((effectOf i s).keyValid = true ∧ s.keyValid = false)) : i = .expand := by
  by_contra hi
  obtain ⟨hW, hvalid, -⟩ := effectOf_schedule i s hi
  simp [hW, hvalid] at h

/-- The writers of DOUT (R31). -/
theorem effectOf_writes_dout (h : (effectOf i s).dout ≠ s.dout) : i = .stst ∨ i = .encb ∨ i = .decb := by
  cases i with
  | expand =>
    obtain ⟨-, hdout, -, -⟩ := expandEffect_results s
    exact absurd hdout h
  | stst | encb | decb => simp
  | _ => exact absurd rfl h

/-- The writers of `RK` (R44). -/
theorem effectOf_writes_RK (h : (effectOf i s).RK ≠ s.RK) : Claims.readsRoundKeys i = true := by
  cases i with
  | expand =>
    obtain ⟨-, -, hRK, -⟩ := expandEffect_results s
    exact absurd hRK h
  | encb | decb | rnde | rndd | ark | ldrk => rfl
  | _ => exact absurd rfl h

/-- The writers of `S` (R35). -/
theorem effectOf_writes_S (h : (effectOf i s).S ≠ s.S) :
    i = .ldst ∨ i = .encb ∨ i = .decb ∨ i = .sub ∨ i = .isub ∨ i = .shr ∨ i = .ishr ∨ i = .mix ∨ i = .imix ∨
      ∃ rnd, i = .rnde rnd ∨ i = .rndd rnd ∨ i = .ark rnd := by
  cases i with
  | expand =>
    obtain ⟨-, -, -, hS⟩ := expandEffect_results s
    exact absurd hS h
  | ldst | encb | decb | sub | isub | shr | ishr | mix | imix | rnde | rndd | ark => simp
  | _ => exact absurd rfl h

end Writers

/-- Settles O50: a step that changes a result completes a command whose pseudocode writes that result. -/
theorem resultRegistersHaveOnlyTheirWriters : Obligations.ResultRegistersHaveOnlyTheirWriters := by
  intro s t hstep hreset
  obtain ⟨hgfres, hW, hvalid, hdout, hRK, hS⟩ | ⟨i, hcompletes, rfl⟩ := step_results hstep hreset
  · refine ⟨absurd hgfres, ?schedule, absurd hdout, absurd hRK, absurd hS⟩
    rintro (hne | ⟨hnew, hold⟩)
    · exact absurd hW hne
    · exact absurd (hvalid hnew) (by simp [hold])
  · exact ⟨fun h => ⟨i, hcompletes, effectOf_writes_gfres h⟩, fun h => effectOf_writes_schedule h ▸ hcompletes,
      fun h => ⟨i, hcompletes, effectOf_writes_dout h⟩, fun h => ⟨i, hcompletes, effectOf_writes_RK h⟩,
      fun h => ⟨i, hcompletes, effectOf_writes_S h⟩⟩

/-! ### Reset -/

/-- While reset is asserted an access of the window is refused (R250). -/
theorem step_access_refused {s : State} {off : Nat} {v : Word32} {rest : List Event} {r : Register}
    (hagenda : s.agenda = .read off 4 :: rest ∨ s.agenda = .write off 4 v :: rest) (hreset : s.resetLine = true)
    (hreg : registerAt off = some r) : step s = .refused .accessDuringReset := by
  have hrefused (act : Register → Host.Outcome State Fault Refusal) :
      whenAdmitted off 4 { s with agenda := rest } act = .refused .accessDuringReset := by
    simp [whenAdmitted, accessTarget_ok.mpr ⟨rfl, hreg⟩, hreset]
  obtain hagenda | hagenda := hagenda
  · rw [step_event (by rw [hagenda, nextEvent_first rest (holdsHost_admitted (v := v) (.inl rfl) hreg)])]
    exact hrefused _
  · rw [step_event (by rw [hagenda, nextEvent_first rest (holdsHost_admitted (.inr rfl) hreg)])]
    exact hrefused _

/-- Settles O51: the reset event is one step, which leaves only `W` unspecified, and an access of the window during
reset reaches a register but is not admitted. -/
theorem resetDiscardsThePendingCommand : Obligations.ResetDiscardsThePendingCommand := by
  refine ⟨fun s rest hagenda => ⟨drawnSchedule s.draws, ?assert⟩, fun s off v rest hreset h4 hle hagenda => ?access⟩
  case assert =>
    rw [step_event (by rw [hagenda, nextEvent_first rest rfl])]
    rfl
  case access =>
    obtain ⟨r, hreg⟩ := Option.isSome_iff_exists.mp ((registerAt_isSome off).mpr ⟨h4, hle⟩)
    exact step_access_refused hagenda hreset hreg

end Sys2Proof.Machine
end

section
/-! Proofs of progress (20_memory.md R74, 70_reset_and_hazards.md R252, 30_encoding.md R101): the machine stops at no
event the spec admits, a pending command completes, and WAIT ends. -/

namespace Sys2Proof.Machine

/-! ### The machine does not stop -/

theorem issueWord_answers_next (v : Word32) {s : State} (hidle : s.busy = false) : ∃ t, issueWord v s = .next t := by
  obtain ⟨i, -, -, h⟩ | ⟨-, h⟩ := issueWord_cases v s hidle <;> exact ⟨_, h⟩

theorem writeRegister_answers_next (r : Register) (v : Word32) (s : State) : ∃ t, writeRegister r v s = .next t := by
  obtain h | ⟨-, h⟩ | ⟨-, h⟩ | ⟨-, h⟩ | ⟨-, k, h⟩ | ⟨-, j, h⟩ | ⟨hidle, -, h⟩ := writeRegister_cases r v s
  case inr.inr.inr.inr.inr.inr =>
    rw [h]
    exact issueWord_answers_next v hidle
  all_goals exact ⟨_, h⟩

/-- The engine's step stops only at an empty latch, which the invariant excludes (R38). -/
theorem engineStep_answers_next {s : State} (hpend : s.busy = true → s.pend.isSome = true) :
    ∃ t, engineStep s = .next t := by
  cases hbusy : s.busy with
  | false => exact ⟨s, engineStep_idle hbusy⟩
  | true =>
    obtain ⟨i, hi⟩ := Option.isSome_iff_exists.mp (hpend hbusy)
    rw [engineStep_busy hbusy hi]
    exact exec_answers_next i s

theorem accessTarget_of_isOk {off width : Nat} (h : (!(accessTarget off width).isOk) = false) :
    ∃ r, accessTarget off width = .ok r := by
  cases htarget : accessTarget off width with
  | ok r => exact ⟨r, rfl⟩
  | error stop => simp [htarget, Except.isOk, Except.toBool] at h

theorem whenAdmitted_answers_next {off width : Nat} {s : State} {act : Register → Host.Outcome State Fault Refusal}
    (hheld : (!(accessTarget off width).isOk) = false) (hreset : s.resetLine = false)
    (hact : ∀ r, ∃ t, act r = .next t) : ∃ t, whenAdmitted off width s act = .next t := by
  obtain ⟨r, htarget⟩ := accessTarget_of_isOk hheld
  simpa [whenAdmitted, htarget, hreset] using hact r

/-- An event that does not hold the host, out of reset if it is the host's, stops the machine nowhere. -/
theorem applyEvent_answers_next {e : Event} {s : State} (hpend : s.busy = true → s.pend.isSome = true)
    (hheld : e.holdsHost = false) (hreset : e.isHost = true → s.resetLine = false) : ∃ t, applyEvent e s = .next t := by
  cases e with
  | read off width => exact whenAdmitted_answers_next hheld (hreset rfl) fun r => ⟨_, rfl⟩
  | write off width v => exact whenAdmitted_answers_next hheld (hreset rfl) fun r => writeRegister_answers_next r v s
  | engine => exact engineStep_answers_next hpend
  | resetAssert => exact ⟨_, rfl⟩
  | resetRelease => exact ⟨_, rfl⟩

/-- An event the spec admits is an access of a register out of reset, or no access. -/
theorem holdsHost_of_admitted {e : Event} {s : State} (h : Admitted s e) :
    e.holdsHost = false ∧ (e.isHost = true → s.resetLine = false) := by
  cases e with
  | read off width =>
    obtain ⟨hreset, rfl, hplace⟩ := h
    obtain ⟨r, hreg⟩ := Option.isSome_iff_exists.mp ((registerAt_isSome off).mpr hplace)
    exact ⟨holdsHost_admitted (v := 0) (.inl rfl) hreg, fun _ => hreset⟩
  | write off width v =>
    obtain ⟨hreset, rfl, hplace⟩ := h
    obtain ⟨r, hreg⟩ := Option.isSome_iff_exists.mp ((registerAt_isSome off).mpr hplace)
    exact ⟨holdsHost_admitted (.inr rfl) hreg, fun _ => hreset⟩
  | engine | resetAssert | resetRelease => exact ⟨rfl, nofun⟩

theorem Invariant.isSome_of_busy {s : State} (h : Invariant s) (hbusy : s.busy = true) : s.pend.isSome = true :=
  h.pendValid ▸ hbusy

/-- Settles O57: the first event, if there is one, does not hold the host and so is the one that happens; without one
the step is the engine's. -/
theorem admittedEventsNeverStop : Obligations.AdmittedEventsNeverStop := by
  intro s hinv hadmitted
  cases hagenda : s.agenda with
  | nil =>
    rw [step_nil hagenda]
    exact engineStep_answers_next hinv.isSome_of_busy
  | cons e rest =>
    obtain ⟨hheld, hreset⟩ := holdsHost_of_admitted (hadmitted e (by rw [hagenda]; rfl))
    rw [step_event (by rw [hagenda, nextEvent_first rest hheld])]
    exact applyEvent_answers_next (s := { s with agenda := rest }) hinv.isSome_of_busy hheld hreset

/-! ### A pending command completes -/

theorem Invariant.resetLine_of_busy {s : State} (h : Invariant s) (hbusy : s.busy = true) : s.resetLine = false := by
  by_contra hline
  simp [h.resetIdle (Bool.eq_true_of_not_eq_false hline)] at hbusy

/-- A busy block that meets the invariant is out of reset and has a command, so no step of it stops. -/
theorem Invariant.step_of_busy {s : State} (h : Invariant s) (hbusy : s.busy = true) : ∃ t, step s = .next t := by
  cases hnext : (nextEvent s.agenda).1 with
  | none =>
    rw [step_quiet hnext, if_pos hbusy]
    exact engineStep_answers_next h.isSome_of_busy
  | some e =>
    rw [step_event (Prod.ext hnext rfl)]
    exact applyEvent_answers_next (s := afterTake s) h.isSome_of_busy (nextEvent_some hnext).1
      fun _ => h.resetLine_of_busy hbusy

/-- A step of a busy block is the completion, a reset, or an event that leaves the block busy and the agenda shorter. -/
theorem step_of_busy_cases {s t : State} (hbusy : s.busy = true) (hstep : step s = .next t) :
    (t.busy = false ∧ t.pend = none ∧ (t.done = true ∨ Event.resetAssert ∈ s.agenda)) ∨
    (t.busy = true ∧ t.agenda.length + 1 = s.agenda.length ∧ ∀ x ∈ t.agenda, x ∈ s.agenda) := by
  have hresult := step_next hstep
  generalize hnext : (nextEvent s.agenda).1 = e at hresult
  cases hresult with
  | completed => exact .inl ⟨rfl, rfl, .inl rfl⟩
  | reset => exact .inl ⟨rfl, rfl, .inr (nextEvent_some hnext).2.1⟩
  | idle _ hidle | cfg _ _ _ hidle | key _ _ _ _ hidle | din _ _ _ _ hidle | illegal _ _ _ hidle
  | failed _ _ _ _ hidle | accepted _ _ _ _ hidle => exact absurd (hbusy.symm.trans hidle) (by decide)
  | read | ignored | acknowledged | dropped | released =>
    exact .inr ⟨hbusy, nextEvent_length hnext, (nextEvent_some hnext).2.2⟩

/-- Settles O58, by induction on the number of events: a step completes the command, or resets the block, or takes an
event off the agenda. -/
theorem completionAlwaysComes : Obligations.CompletionAlwaysComes := by
  intro s hinv hbusy
  induction hlength : s.agenda.length using Nat.strong_induction_on generalizing s with
  | _ n ih =>
    obtain ⟨t, hstep⟩ := hinv.step_of_busy hbusy
    obtain ⟨hidle, hpend, hdone⟩ | ⟨hstill, hshorter, hleft⟩ := step_of_busy_cases hbusy hstep
    · exact ⟨1, t, by omega, run_next 0 hstep, hidle, hpend, hdone.resolve_right⟩
    · obtain ⟨m, u, hm, hrun, hidle, hpend, hdone⟩ :=
        ih t.agenda.length (by omega) t (everyStepKeepsTheInvariant s t hinv hstep) hstill rfl
      exact ⟨m + 1, u, by omega, (run_next m hstep).trans hrun, hidle, hpend,
        fun hnoReset => hdone fun hmem => hnoReset (hleft _ hmem)⟩

/-! ### WAIT -/

theorem statusWord_busy (s : State) : (statusWord s).getLsbD 0 = s.busy := by
  rw [statusWord, BitVec.getLsbD_append]
  simp

theorem statusWord_done (s : State) : (statusWord s).getLsbD 1 = s.done := by
  rw [statusWord, BitVec.getLsbD_append, BitVec.getLsbD_append]
  simp

/-- The engine's step ends with BUSY 0 and DONE 1 if a command was pending, and leaves the error flags. -/
theorem engineStep_completes {s : State} (hpend : s.busy = true → s.pend.isSome = true) :
    ∃ t, engineStep s = .next t ∧ t.busy = false ∧ t.done = (s.busy || s.done) ∧ t.err = s.err ∧
      t.errcode = s.errcode ∧ t.resetLine = s.resetLine ∧ t.agenda = s.agenda := by
  cases hbusy : s.busy with
  | false => exact ⟨s, engineStep_idle hbusy, hbusy, rfl, rfl, rfl, rfl, rfl⟩
  | true =>
    obtain ⟨i, hi⟩ := Option.isSome_iff_exists.mp (hpend hbusy)
    obtain ⟨-, -, herr, hcode, -, -, -, -, -, hline, hagenda, -⟩ := effectOf_frame i s
    exact ⟨complete (effectOf i s), (engineStep_busy hbusy hi).trans (exec_busy i s hbusy), rfl, rfl, herr, hcode,
      hline, hagenda⟩

/-- WAIT runs to its end: the polls read STATUS, the engine slot completes the command if one is pending, and the last
read returns the STATUS of the state it leaves (R101). -/
theorem run_wait (polls : Nat) {s : State} (hreset : s.resetLine = false)
    (hpend : s.busy = true → s.pend.isSome = true) (hagenda : s.agenda = HostStmt.events (.wait polls)) :
    ∃ t, core.run (polls + 2) s = .next t ∧ t.agenda = [] ∧ t.busy = false ∧ t.done = (s.busy || s.done) ∧
      t.err = s.err ∧ t.errcode = s.errcode ∧ t.readData = some (statusWord t) := by
  induction polls generalizing s with
  | zero =>
    obtain ⟨t, hengine, hidle, hdone, herr, hcode, hline, hleft⟩ :=
      engineStep_completes (s := { s with agenda := [.read 0x04 4] }) hpend
    have hread : step t = .next (deliverRead .status { t with agenda := [] }) :=
      step_read hleft (hline.trans hreset) rfl
    exact ⟨_, (run_next 1 ((step_engine hagenda).trans hengine)).trans (run_next 0 hread), rfl, hidle, hdone, herr,
      hcode, rfl⟩
  | succ polls ih =>
    have hread : step s = .next (deliverRead .status { s with agenda := HostStmt.events (.wait polls) }) :=
      step_read hagenda hreset rfl
    obtain ⟨t, hrun, hends⟩ := ih (s := deliverRead .status { s with agenda := HostStmt.events (.wait polls) })
      hreset hpend rfl
    exact ⟨t, (run_next (polls + 2) hread).trans hrun, hends⟩

/-- Settles O59: WAIT runs from a busy block, which is out of reset and has a command. -/
theorem waitEnds : Obligations.WaitEnds := by
  intro s polls hinv hbusy
  obtain ⟨t, hrun, hagenda, hidle, hdone, -, -, hread⟩ := run_wait polls
    (s := { s with agenda := HostStmt.events (.wait polls) }) (hinv.resetLine_of_busy hbusy) hinv.isSome_of_busy rfl
  exact ⟨t, statusWord t, hrun, hidle, hdone.trans (by simp [hbusy]), hread, (statusWord_busy t).trans hidle, hagenda⟩

/-- The end of an issue: pending with the error flags as before, or failed with its code recorded and DONE 1. -/
theorem issue_flags (i : Instr) {s : State} (hidle : s.busy = false) :
    ((issue i s).busy || (issue i s).done) = true ∧ ((issue i s).busy = true → (issue i s).pend.isSome = true) ∧
    (issue i s).resetLine = s.resetLine ∧ (issue i s).agenda = s.agenda ∧
    (checkCommand i s = .noError → (issue i s).err = s.err ∧ (issue i s).errcode = s.errcode) ∧
    (checkCommand i s ≠ .noError →
      (issue i s).err = true ∧ (issue i s).errcode = if s.err then s.errcode else checkCommand i s) := by
  obtain ⟨hcheck, hissue⟩ | ⟨hcheck, hissue⟩ := issue_cases i s <;> rw [hissue] <;> simp [hcheck, hidle]

theorem hostProgram_cmd_wait (i : Instr) (polls : Nat) : hostProgram [.cmd i, .wait polls] =
    .write 0x00 4 (encode i) :: HostStmt.events (.wait polls) := by
  simp [hostProgram, HostStmt.events]

/-- Settles O60: the CMD write is the issue of the command, and WAIT runs from the state it leaves. -/
theorem commandAndWaitEndWithDone : Obligations.CommandAndWaitEndWithDone := by
  intro s i polls hidle hreset hwf
  have hissue : step { s with agenda := hostProgram [.cmd i, .wait polls] } =
      .next (issue i { s with agenda := HostStmt.events (.wait polls) }) := by
    have hstep := stepIssuesTheDecodedCommand { s with agenda := hostProgram [.cmd i, .wait polls] } (encode i) i
      (HostStmt.events (.wait polls)) (decodeOfEncodeIsTheCommand i hwf) hidle hreset (hostProgram_cmd_wait i polls)
    exact hstep.trans (exec_idle i _ hidle)
  obtain ⟨hdone, hpend, hline, hagenda, hpass, hfail⟩ :=
    issue_flags i (s := { s with agenda := HostStmt.events (.wait polls) }) hidle
  obtain ⟨t, hrun, hend, htidle, htdone, herr, hcode, hread⟩ := run_wait polls (hline.trans hreset) hpend hagenda
  refine ⟨t, statusWord t, (run_next (polls + 2) hissue).trans hrun, hend, htidle, htdone.trans hdone, hread,
    (statusWord_busy t).trans htidle, (statusWord_done t).trans (htdone.trans hdone), ?_⟩
  rw [herr, hcode]
  exact ⟨hpass, hfail⟩

end Sys2Proof.Machine
end

section
/-! Proofs of the laws of the field (40_gf_arith.md R113, R114), of the tables (10_state.md R41, R42) and of the round
transforms (43_round_transforms.md R171, R176, R180, R183, R184). -/

namespace Sys2Proof.Machine

/-! ### The field -/

/-- A byte as the sum of its bits. -/
theorem byte_eq_sum (b : Byte) : b = select (b.getLsbD 0) 0x01 ^^^ select (b.getLsbD 1) 0x02
    ^^^ select (b.getLsbD 2) 0x04 ^^^ select (b.getLsbD 3) 0x08 ^^^ select (b.getLsbD 4) 0x10
    ^^^ select (b.getLsbD 5) 0x20 ^^^ select (b.getLsbD 6) 0x40 ^^^ select (b.getLsbD 7) 0x80 :=
  (one_multiply b).symm.trans (multiply_eq_sum 1#8 b)

/-- What holds of 0 and of the eight powers of 2 and is kept by XOR holds of every byte. -/
theorem byte_induction {P : Byte → Prop} (hzero : P 0#8) (hpow : ∀ i : Fin 8, P (1#8 <<< i.val))
    (hxor : ∀ a b, P a → P b → P (a ^^^ b)) (b : Byte) : P b := by
  have hselect (p : Bool) (i : Fin 8) : P (select p (1#8 <<< i.val)) := by
    cases p
    · exact hzero
    · exact hpow i
  rw [byte_eq_sum b]
  exact hxor _ _ (hxor _ _ (hxor _ _ (hxor _ _ (hxor _ _ (hxor _ _ (hxor _ _ (hselect _ 0) (hselect _ 1)) (hselect _ 2))
    (hselect _ 3)) (hselect _ 4)) (hselect _ 5)) (hselect _ 6)) (hselect _ 7)

@[simp] theorem multiply_zero (a : Byte) : multiply a 0#8 = 0#8 := by
  simp [multiply_eq_sum, select]

theorem zero_multiply (a : Byte) : multiply 0#8 a = 0#8 := by
  have h := multiply_xor_left a a a
  rwa [BitVec.xor_self, BitVec.xor_self] at h

/-- Two powers of 2 commute. -/
theorem multiply_comm_pow : ∀ i j : Fin 8,
    multiply (1#8 <<< i.val) (1#8 <<< j.val) = multiply (1#8 <<< j.val) (1#8 <<< i.val) := by
  decide

/-- Multiplication is bilinear over XOR, so it commutes since the powers of 2 do. -/
theorem multiply_comm (a b : Byte) : multiply a b = multiply b a := by
  induction a using byte_induction with
  | hzero => rw [zero_multiply, multiply_zero]
  | hxor x y hx hy => rw [multiply_xor_left, multiply_xor_right, hx, hy]
  | hpow i =>
    induction b using byte_induction with
    | hzero => rw [zero_multiply, multiply_zero]
    | hxor x y hx hy => rw [multiply_xor_left, multiply_xor_right, hx, hy]
    | hpow j => exact multiply_comm_pow i j

/-- Settles O29: commutativity by bilinearity, and 0 and 1 as the first or the second factor. -/
theorem multiplyObeysTheFieldLaws : Obligations.MultiplyObeysTheFieldLaws :=
  fun a b => ⟨multiply_comm a b, multiply_zero a, (multiply_comm a 1).trans (one_multiply a)⟩

/-- Settles O30: each constant's bits select the doublings that its shortcut adds. -/
theorem shortcutsAreMultiplications : Obligations.ShortcutsAreMultiplications := by
  intro b
  refine ⟨?three, ?nine, ?eleven, ?thirteen, ?fourteen⟩
  all_goals
    rw [multiply_eq_sum]
    simp [select, mul3, mul9, mul11, mul13, mul14]
    ac_rfl

/-! ### The tables -/

/-- Settles O31: the ten entries are evaluated. -/
theorem roundConstantsDouble : Obligations.RoundConstantsDouble := by
  exact ⟨by decide, by decide, by decide⟩

theorem invSbox_sbox : ∀ x : Byte, invSbox (sbox x) = x := by
  decide +kernel

theorem sbox_invSbox : ∀ x : Byte, sbox (invSbox x) = x := by
  decide +kernel

/-- The inverse of the affine map of the FIPS-197 construction. -/
def affineInverse (z : Byte) : Byte := z.rotateLeft 1 ^^^ z.rotateLeft 3 ^^^ z.rotateLeft 6 ^^^ 0x05

theorem affine_affineInverse : ∀ z : Byte, Claims.affine (affineInverse z) = z := by
  decide +kernel

/-- The byte whose affine image is an SBOX entry is the multiplicative inverse of the entry's index. -/
theorem multiply_affineInverse_sbox :
    ∀ x : Byte, if x = 0 then affineInverse (sbox x) = 0 else multiply x (affineInverse (sbox x)) = 1 := by
  decide +kernel

/-- Settles O32: the affine map of the inverse of the index is the entry. -/
theorem substitutionTablesAreTheConstruction : Obligations.SubstitutionTablesAreTheConstruction :=
  fun x => ⟨invSbox_sbox x, sbox_invSbox x, affineInverse (sbox x), multiply_affineInverse_sbox x,
    (affine_affineInverse (sbox x)).symm⟩

/-! ### The transforms and their inverses -/

/-- A matrix is one of finitely many. -/
theorem finite_matrix : Finite Matrix :=
  Finite.of_injective (fun (M : Matrix) (r c : Fin 4) => M[r][c].toFin) fun M N h => by
    apply Matrix.ext_entries
    intro r c
    exact BitVec.toFin_inj.mp (congrFun (congrFun h r) c)

/-- Of two maps of the matrices, one that undoes the other is undone by it. -/
theorem Matrix.leftInverse_symm {f g : Matrix → Matrix} (h : Function.LeftInverse g f) : Function.LeftInverse f g :=
  have := finite_matrix
  h.rightInverse_of_surjective (Finite.injective_iff_surjective.mp h.injective)

/-- R171. -/
theorem invSubBytes_subBytes : Function.LeftInverse invSubBytes subBytes := by
  intro M
  apply Matrix.ext_entries
  intro r c
  simp [invSbox_sbox]

/-- R176. -/
theorem invShiftRows_shiftRows : Function.LeftInverse invShiftRows shiftRows := by
  intro M
  apply Matrix.ext_entries
  intro r c
  have hcol : ((4 - r.val + c.val) % 4 + r.val) % 4 = c.val := by omega
  simp [hcol]

/-- R183. -/
theorem addRoundKey_addRoundKey (M K : Matrix) : addRoundKey (addRoundKey M K) K = M := by
  apply Matrix.ext_entries
  intro r c
  simp

/-- What column mixing by `B` and then by `A` makes of byte `j` of a column in row `r`. -/
def mixTwice (A B : Matrix) (r j : Fin 4) (m : Byte) : Byte :=
  multiply A[r][0] (multiply B[0][j] m) ^^^ multiply A[r][1] (multiply B[1][j] m)
    ^^^ multiply A[r][2] (multiply B[2][j] m) ^^^ multiply A[r][3] (multiply B[3][j] m)

/-- Mixing twice adds up, over the bytes of the column, what it makes of each. -/
theorem mixWith_mixWith_entry (A B M : Matrix) (r c : Fin 4) : (mixWith A (mixWith B M))[r][c] =
    mixTwice A B r 0 M[0][c] ^^^ mixTwice A B r 1 M[1][c] ^^^ mixTwice A B r 2 M[2][c]
      ^^^ mixTwice A B r 3 M[3][c] := by
  simp only [Fin.getElem_fin, mixWith_entry, multiply_xor_right, mixTwice]
  ac_rfl

/-- The product of `MI` and `MF` is the identity: on the powers of 2. -/
theorem mixTwice_inverse_pow : ∀ (r j : Fin 4) (i : Fin 8),
    mixTwice mixInverse mixForward r j (1#8 <<< i.val) = if r = j then 1#8 <<< i.val else 0 := by
  decide +kernel

/-- The product of `MI` and `MF` is the identity, since both sides are linear (R180). -/
theorem mixTwice_inverse (r j : Fin 4) (m : Byte) :
    mixTwice mixInverse mixForward r j m = if r = j then m else 0 := by
  induction m using byte_induction with
  | hzero => simp [mixTwice]
  | hpow i => exact mixTwice_inverse_pow r j i
  | hxor a b ha hb =>
    have hlinear : mixTwice mixInverse mixForward r j (a ^^^ b) =
        mixTwice mixInverse mixForward r j a ^^^ mixTwice mixInverse mixForward r j b := by
      simp only [mixTwice, multiply_xor_right]
      ac_rfl
    rw [hlinear, ha, hb]
    split <;> simp

/-- R180. -/
theorem invMixColumns_mixColumns : Function.LeftInverse invMixColumns mixColumns := by
  intro M
  apply Matrix.ext_entries
  intro r c
  rw [invMixColumns, mixColumns, mixWith_mixWith_entry]
  simp only [mixTwice_inverse]
  match r with
  | 0 | 1 | 2 | 3 => simp

/-- A command undoes another if its pseudocode does, on the state a completion leaves. -/
theorem undoes_of_effectOf {second first : Instr}
    (h : ∀ s, (effectOf second { complete (effectOf first s) with busy := true }).S = s.S) :
    Claims.Undoes second first := by
  intro s t hbusy hfirst
  rw [exec_busy first s hbusy] at hfirst
  cases hfirst
  exact ⟨_, exec_busy second _ rfl, h s⟩

/-- Settles O33: the transforms undo each other on every matrix. -/
theorem substitutionRotationAndInjectionAreUndone : Obligations.SubstitutionRotationAndInjectionAreUndone :=
  ⟨undoes_of_effectOf fun s => invSubBytes_subBytes s.S,
    undoes_of_effectOf fun s => Matrix.leftInverse_symm invSubBytes_subBytes s.S,
    undoes_of_effectOf fun s => invShiftRows_shiftRows s.S,
    undoes_of_effectOf fun s => Matrix.leftInverse_symm invShiftRows_shiftRows s.S,
    fun rnd => undoes_of_effectOf fun s => addRoundKey_addRoundKey s.S (roundKey s.W rnd)⟩

/-- Settles O34: mixing with `MF` and then with `MI` leaves every matrix, and then so does the other order. -/
theorem columnMixingIsUndone : Obligations.ColumnMixingIsUndone :=
  ⟨undoes_of_effectOf fun s => invMixColumns_mixColumns s.S,
    undoes_of_effectOf fun s => Matrix.leftInverse_symm invMixColumns_mixColumns s.S⟩

/-! ### Lanes -/

/-- Settles O35: each entry of a transform names the one byte, row or column it is made of (R184). -/
theorem lanesAreIndependent : Obligations.LanesAreIndependent := by
  refine fun M N K L r c => ⟨fun hbyte => ⟨?sub, ?isub⟩, fun hbyte hkey => ?ark, fun hrow => ⟨?shr, ?ishr⟩,
    fun hcol => ⟨?mix, ?imix⟩⟩
  case sub => simpa using congrArg sbox hbyte
  case isub => simpa using congrArg invSbox hbyte
  case ark => simpa using congrArg₂ (· ^^^ ·) hbyte hkey
  case shr =>
    apply Vector.ext
    intro k hk
    simpa using congrArg (fun t : Quad => t[(k + r.val) % 4]) hrow
  case ishr =>
    apply Vector.ext
    intro k hk
    simpa using congrArg (fun t : Quad => t[(4 - r.val + k) % 4]) hrow
  case mix => rw [mixColumns, mixColumns, col_mixWith, col_mixWith, hcol]
  case imix => rw [invMixColumns, invMixColumns, col_mixWith, col_mixWith, hcol]

/-! ### Blocks and states -/

/-- R150. -/
theorem toState_byte (B : Block) (r c : Fin 4) : B[4 * c.val + r.val]? = some (toState B)[r][c] := by
  simp [toState]

/-- R151. -/
theorem toBytes_byte (M : Matrix) (r c : Fin 4) : (toBytes M)[4 * c.val + r.val]? = some M[r][c] := by
  have hcol : (4 * c.val + r.val) / 4 = c.val := by omega
  have hrow : (4 * c.val + r.val) % 4 = r.val := by omega
  rw [Vector.getElem?_eq_getElem (by omega)]
  simp [toBytes, hcol, hrow]

theorem toState_toBytes (M : Matrix) : toState (toBytes M) = M := by
  apply Matrix.ext_entries
  intro r c
  exact Option.some.inj ((toState_byte (toBytes M) r c).symm.trans (toBytes_byte M r c))

theorem toBytes_toState (B : Block) : toBytes (toState B) = B := by
  apply Vector.ext
  intro i hi
  have hindex : 4 * (i / 4) + i % 4 = i := by omega
  simp [toBytes, toState, hindex]

/-- Settles O43: both conversions entry by entry (R150, R151), from which both compositions. -/
theorem blockAndStateConvertColumnMajor : Obligations.BlockAndStateConvertColumnMajor :=
  ⟨toState_byte, toBytes_byte, toBytes_toState, toState_toBytes⟩

/-! ### STATUS and CFG -/

theorem toNat_append_eq_add {m n : Nat} (x : BitVec m) (y : BitVec n) :
    (x ++ y).toNat = x.toNat * 2 ^ n + y.toNat := by
  rw [BitVec.toNat_append, ← Nat.shiftLeft_add_eq_or_of_lt y.isLt, Nat.shiftLeft_eq]

/-- Settles O41: a word built by appending fields is the sum of the fields, each shifted by the width of those below. -/
theorem statusAndCfgHoldTheirFields : Obligations.StatusAndCfgHoldTheirFields := by
  refine ⟨fun s => ⟨?status, ?cfg⟩, rfl⟩
  case status =>
    rw [statusWord]
    simp only [toNat_append_eq_add, BitVec.toNat_ofBool]
    simp
    omega
  case cfg =>
    rw [cfgWord]
    simp only [toNat_append_eq_add, BitVec.toNat_ofBool]
    simp
    omega

end Sys2Proof.Machine
end

section
/-! Proofs about the block commands as wholes (44_block_sequencer.md R204 to R207) and the expansion (41_key_schedule.md
R138): their steps, their round trip, and what they depend on. -/

namespace Sys2Proof.Machine

/-! ### Commands one after another -/

/-- The pseudocode of commands one after another. -/
def effectsOf (is : List Instr) (s : State) : State := is.foldl (fun t i => effectOf i t) s

@[simp] theorem effectsOf_nil (s : State) : effectsOf [] s = s := rfl

@[simp] theorem effectsOf_cons (i : Instr) (is : List Instr) (s : State) :
    effectsOf (i :: is) s = effectsOf is (effectOf i s) := rfl

theorem effectsOf_append (is js : List Instr) (s : State) :
    effectsOf (is ++ js) s = effectsOf js (effectsOf is s) :=
  List.foldl_append

/-- The state with BUSY, DONE and PEND replaced, which no pseudocode reads. -/
def withBookkeeping (busy done : Bool) (pend : Option Instr) (s : State) : State :=
  { s with busy := busy, done := done, pend := pend }

theorem effectOf_withBookkeeping (i : Instr) (busy done : Bool) (pend : Option Instr) (s : State) :
    effectOf i (withBookkeeping busy done pend s) = withBookkeeping busy done pend (effectOf i s) := by
  cases i with
  | expand =>
    simp only [effectOf, expandEffect, withBookkeeping]
    cases keySize s.ks <;> rfl
  | _ => rfl

/-- The command is not EXPAND and its round index, if it has one, is in range for a key of `nr` rounds. -/
def PassesWithKey (nr : Nat) (i : Instr) : Prop := i ≠ .expand ∧ roundOutOfRange nr i = false

theorem checkCommand_of_passesWithKey {i : Instr} {s : State} (hkey : s.keyValid = true)
    (h : PassesWithKey s.nr.toNat i) : checkCommand i s = .noError := by
  simp [checkCommand, hkey, h.1, h.2]

section Pass

variable {i : Instr} {is : List Instr} {s : State}

/-- A command that passes runs to the completion of its pseudocode, which its acceptance leaves the same. -/
theorem runToCompletion_of_passesWithKey (hidle : s.busy = false) (hkey : s.keyValid = true)
    (h : PassesWithKey s.nr.toNat i) : runToCompletion i s = .next (complete (effectOf i s)) := by
  have heffect : effectOf i (accept i s) = withBookkeeping true false (some i) (effectOf i s) :=
    effectOf_withBookkeeping i true false (some i) s
  rw [runToCompletion_of_pass i s hidle (checkCommand_of_passesWithKey hkey h), heffect]
  rfl

theorem effectOf_complete (i : Instr) (s : State) : effectOf i (complete s) = complete (effectOf i s) :=
  effectOf_withBookkeeping i false true none s

theorem runCommands_complete (hkey : s.keyValid = true) (h : ∀ i ∈ is, PassesWithKey s.nr.toNat i) :
    runCommands is (complete s) = .next (complete (effectsOf is s)) := by
  induction is generalizing s with
  | nil => rfl
  | cons i is ih =>
    rw [List.forall_mem_cons] at h
    obtain ⟨hi, his⟩ := h
    obtain ⟨-, hvalid, hnr⟩ := effectOf_schedule i s hi.1
    rw [runCommands, runToCompletion_of_passesWithKey (s := complete s) rfl hkey hi, effectOf_complete]
    exact ih (hvalid.trans hkey) (hnr.symm ▸ his)

/-- Commands that pass run one after another to the completion of their pseudocodes. -/
theorem runCommands_of_passesWithKey (hidle : s.busy = false) (hkey : s.keyValid = true) (hne : is ≠ [])
    (h : ∀ j ∈ is, PassesWithKey s.nr.toNat j) : runCommands is s = .next (complete (effectsOf is s)) := by
  obtain ⟨i, is, rfl⟩ := List.exists_cons_of_ne_nil hne
  rw [List.forall_mem_cons] at h
  obtain ⟨hi, his⟩ := h
  obtain ⟨-, hvalid, hnr⟩ := effectOf_schedule i s hi.1
  rw [runCommands, runToCompletion_of_passesWithKey hidle hkey hi]
  exact runCommands_complete (hvalid.trans hkey) (hnr.symm ▸ his)

/-- Commands whose pseudocodes together are another's leave the state the other leaves. -/
theorem runCommands_eq_runToCompletion (hidle : s.busy = false) (hkey : s.keyValid = true) (hne : is ≠ [])
    (h : ∀ j ∈ is, PassesWithKey s.nr.toNat j) (hi : PassesWithKey s.nr.toNat i)
    (heffects : effectsOf is s = effectOf i s) : runCommands is s = runToCompletion i s := by
  rw [runCommands_of_passesWithKey hidle hkey hne h, runToCompletion_of_passesWithKey hidle hkey hi, heffects]

end Pass

/-! ### ENCB and DECB in steps -/

/-- A block in the midst of its rounds: `S` and `RK` written. -/
def midBlock (K M : Matrix) (s : State) : State := setRK K (setS M s)

section MidBlock

variable (rnd : Nat) (K M : Matrix) (s : State)

theorem effectOf_sub_midBlock : effectOf .sub (midBlock K M s) = midBlock K (subBytes M) s := rfl

theorem effectOf_isub_midBlock : effectOf .isub (midBlock K M s) = midBlock K (invSubBytes M) s := rfl

theorem effectOf_shr_midBlock : effectOf .shr (midBlock K M s) = midBlock K (shiftRows M) s := rfl

theorem effectOf_ishr_midBlock : effectOf .ishr (midBlock K M s) = midBlock K (invShiftRows M) s := rfl

theorem effectOf_mix_midBlock : effectOf .mix (midBlock K M s) = midBlock K (mixColumns M) s := rfl

theorem effectOf_imix_midBlock : effectOf .imix (midBlock K M s) = midBlock K (invMixColumns M) s := rfl

theorem effectOf_ark_midBlock : effectOf (.ark rnd) (midBlock K M s) =
    midBlock (roundKey s.W rnd) (addRoundKey M (roundKey s.W rnd)) s := rfl

theorem effectOf_rnde_midBlock : effectOf (.rnde rnd) (midBlock K M s) =
    midBlock (roundKey s.W rnd) (forwardRound s.W s.nr.toNat rnd M) s := rfl

theorem effectOf_rndd_midBlock : effectOf (.rndd rnd) (midBlock K M s) =
    midBlock (roundKey s.W rnd) (inverseRound s.W rnd M) s := rfl

/-- A forward round is its transforms (R204). -/
theorem effectsOf_forwardSteps : effectsOf (Claims.forwardSteps s.nr.toNat rnd) (midBlock K M s) =
    effectOf (.rnde rnd) (midBlock K M s) := by
  rw [effectOf_rnde_midBlock, Claims.forwardSteps]
  split <;> rename_i h
  · rw [effectsOf_cons, effectOf_sub_midBlock, effectsOf_cons, effectOf_shr_midBlock, effectsOf_cons,
      effectOf_ark_midBlock, effectsOf_nil, forwardRound_of_eq s.W M h]
  · rw [effectsOf_cons, effectOf_sub_midBlock, effectsOf_cons, effectOf_shr_midBlock, effectsOf_cons,
      effectOf_mix_midBlock, effectsOf_cons, effectOf_ark_midBlock, effectsOf_nil, forwardRound_of_ne s.W M h]

/-- An inverse round is its transforms (R205). -/
theorem effectsOf_inverseSteps :
    effectsOf (if rnd = 0 then [.ishr, .isub, .ark rnd] else [.ishr, .isub, .ark rnd, .imix]) (midBlock K M s) =
      effectOf (.rndd rnd) (midBlock K M s) := by
  rw [effectOf_rndd_midBlock]
  split <;> rename_i h
  · rw [effectsOf_cons, effectOf_ishr_midBlock, effectsOf_cons, effectOf_isub_midBlock, effectsOf_cons,
      effectOf_ark_midBlock, effectsOf_nil, inverseRound_of_zero s.W M h]
  · rw [effectsOf_cons, effectOf_ishr_midBlock, effectsOf_cons, effectOf_isub_midBlock, effectsOf_cons,
      effectOf_ark_midBlock, effectsOf_cons, effectOf_imix_midBlock, effectsOf_nil,
      inverseRound_of_pos s.W M (Nat.pos_of_ne_zero h)]

end MidBlock

/-- LDST, a first ARK, rounds that end with `X` and `K`, and STST store the block as ENCB and DECB do. -/
theorem effectsOf_blockSteps {first : Nat} {rounds : List Instr} {s : State} {X K : Matrix}
    (hrounds : effectsOf rounds (midBlock (roundKey s.W first)
      (addRoundKey (toState (blockOfRegs s.din)) (roundKey s.W first)) s) = midBlock K X s) :
    effectsOf (Claims.blockSteps first rounds) s = storeBlock X K s := by
  rw [Claims.blockSteps, effectsOf_cons, effectsOf_cons, effectsOf_append]
  exact congrArg (effectsOf [.stst]) hrounds

/-- Rounds given by steps that are RNDE 1 to RNDE `n`. -/
theorem effectsOf_forwardRounds {steps : Nat → List Instr} {s : State}
    (hsteps : ∀ k K M, effectsOf (steps k) (midBlock K M s) = effectOf (.rnde (k + 1)) (midBlock K M s)) (M : Matrix) :
    ∀ n, effectsOf ((List.range n).flatMap steps) (midBlock (roundKey s.W 0) M s) =
      midBlock (roundKey s.W n) (forwardRounds s.W s.nr.toNat n M) s
  | 0 => rfl
  | n + 1 => by
    rw [List.range_succ, List.flatMap_append, effectsOf_append, effectsOf_forwardRounds hsteps M n,
      List.flatMap_singleton, hsteps, effectOf_rnde_midBlock, forwardRounds]

/-- RNDD `n - 1` down to RNDD 0. -/
theorem effectsOf_inverseRounds (s : State) : ∀ (n : Nat) (M : Matrix),
    effectsOf ((List.range n).reverse.map .rndd) (midBlock (roundKey s.W n) M s) =
      midBlock (roundKey s.W 0) (inverseRounds s.W n M) s
  | 0, _ => rfl
  | n + 1, M => by
    rw [List.range_succ, List.reverse_concat, List.map_cons, effectsOf_cons, effectOf_rndd_midBlock,
      effectsOf_inverseRounds s n, inverseRounds]

theorem passesWithKey_blockSteps {nr first : Nat} {rounds : List Instr} (hfirst : first ≤ nr)
    (hrounds : ∀ i ∈ rounds, PassesWithKey nr i) : ∀ i ∈ Claims.blockSteps first rounds, PassesWithKey nr i := by
  have hark : PassesWithKey nr (.ark first) := by simp [PassesWithKey, roundOutOfRange, hfirst]
  simp only [Claims.blockSteps, List.forall_mem_cons, List.forall_mem_append]
  exact ⟨⟨nofun, rfl⟩, hark, hrounds, ⟨nofun, rfl⟩, nofun⟩

theorem passesWithKey_forwardSteps {nr rnd : Nat} (h : rnd ≤ nr) :
    ∀ i ∈ Claims.forwardSteps nr rnd, PassesWithKey nr i := by
  unfold Claims.forwardSteps
  split <;> simp [PassesWithKey, roundOutOfRange, h]

/-- ENCB is LDST, ARK 0, any steps whose pseudocodes are RNDE 1 to RNDE NR, and STST. -/
theorem encb_eq_blockSteps {s : State} {steps : Nat → List Instr} (hidle : s.busy = false) (hkey : s.keyValid = true)
    (hpass : ∀ k < s.nr.toNat, ∀ i ∈ steps k, PassesWithKey s.nr.toNat i)
    (hsteps : ∀ k K M, effectsOf (steps k) (midBlock K M s) = effectOf (.rnde (k + 1)) (midBlock K M s)) :
    runCommands (Claims.blockSteps 0 ((List.range s.nr.toNat).flatMap steps)) s = runToCompletion .encb s := by
  refine runCommands_eq_runToCompletion hidle hkey (List.cons_ne_nil _ _)
    (passesWithKey_blockSteps (Nat.zero_le _) ?passes) ⟨nofun, rfl⟩
    (effectsOf_blockSteps (effectsOf_forwardRounds hsteps _ _))
  case passes =>
    intro i hi
    obtain ⟨k, hk, hik⟩ := List.mem_flatMap.mp hi
    exact hpass k (List.mem_range.mp hk) i hik

/-- Settles O36: the round commands and the transforms are both steps whose pseudocodes are the forward rounds. -/
theorem encbIsItsSteps : Obligations.EncbIsItsSteps := by
  refine fun s hidle hkey => ⟨?rounds, ?transforms⟩
  case rounds =>
    rw [List.map_eq_flatMap]
    refine encb_eq_blockSteps hidle hkey (fun k hk i hi => ?_) fun _ _ _ => rfl
    obtain rfl := List.mem_singleton.mp hi
    simpa [PassesWithKey, roundOutOfRange] using hk
  case transforms =>
    exact encb_eq_blockSteps hidle hkey (fun _ hk => passesWithKey_forwardSteps hk)
      fun k K M => effectsOf_forwardSteps (k + 1) K M s

/-- Settles O37: the inverse rounds in their order, and each as its transforms. -/
theorem decbIsItsSteps : Obligations.DecbIsItsSteps := by
  refine fun s hidle hkey => ⟨?rounds, fun rnd hrnd => ?transforms⟩
  case rounds =>
    refine runCommands_eq_runToCompletion hidle hkey (List.cons_ne_nil _ _)
      (passesWithKey_blockSteps le_rfl ?passes) ⟨nofun, rfl⟩ (effectsOf_blockSteps (effectsOf_inverseRounds s _ _))
    simp [PassesWithKey, roundOutOfRange]
  case transforms =>
    refine runCommands_eq_runToCompletion hidle hkey (by split <;> simp) ?steps ?self
      (effectsOf_inverseSteps rnd s.RK s.S s)
    case steps => split <;> simp [PassesWithKey, roundOutOfRange, hrnd.le]
    case self => simp [PassesWithKey, roundOutOfRange, hrnd]

/-! ### The round trip (R206) -/

/-- An inverse round undoes SubBytes and ShiftRows, and leaves what AddRoundKey and InvMixColumns make of the state
before them (R201). -/
theorem inverseRound_shiftRows_subBytes (W : Vector Quad 60) (rnd : Nat) (M : Matrix) :
    inverseRound W rnd (shiftRows (subBytes M)) =
      if rnd = 0 then addRoundKey M (roundKey W rnd) else invMixColumns (addRoundKey M (roundKey W rnd)) := by
  rw [inverseRound, invShiftRows_shiftRows, invSubBytes_subBytes]

/-- The inverse rounds `n` down to 0 undo SubBytes and ShiftRows of round `n + 1` and the forward rounds up to `n`,
none of which is the final one. -/
theorem inverseRounds_forwardRounds (W : Vector Quad 60) (nr : Nat) (M : Matrix) : ∀ n < nr,
    inverseRounds W (n + 1) (shiftRows (subBytes (forwardRounds W nr n (addRoundKey M (roundKey W 0))))) = M := by
  intro n
  induction n with
  | zero =>
    intro _
    rw [inverseRounds, inverseRound_shiftRows_subBytes, if_pos rfl]
    exact addRoundKey_addRoundKey M _
  | succ n ih =>
    intro hn
    rw [inverseRounds, inverseRound_shiftRows_subBytes, if_neg n.succ_ne_zero, forwardRounds_succ, if_neg hn.ne,
      addRoundKey_addRoundKey, invMixColumns_mixColumns]
    exact ih (Nat.lt_of_succ_lt hn)

theorem decryptState_encryptState (W : Vector Quad 60) (nr : Nat) :
    Function.LeftInverse (decryptState W nr) (encryptState W nr) := by
  intro M
  cases nr with
  | zero => exact addRoundKey_addRoundKey M _
  | succ n =>
    rw [decryptState, encryptState, forwardRounds_succ, if_pos rfl, addRoundKey_addRoundKey]
    exact inverseRounds_forwardRounds W (n + 1) M n n.lt_succ_self

theorem col_entry (M : Matrix) (r c : Fin 4) : (col M c)[r] = M[r][c] := by
  match r with
  | 0 | 1 | 2 | 3 => rfl

/-- A stored state, DOUT being copied to DIN, is loaded again (R150, R151, R76). -/
theorem toState_blockOfRegs_stored (X : Matrix) : toState (blockOfRegs (regsOfBlock (toBytes X))) = X := by
  apply Matrix.ext_entries
  intro r c
  calc (toState (blockOfRegs (regsOfBlock (toBytes X))))[r][c]
    _ = (regsOfBlock (toBytes X))[c].extractLsb' (24 - 8 * r.val) 8 := toState_blockOfRegs_entry _ r c r.isLt c.isLt
    _ = (pack (col X c)).extractLsb' (24 - 8 * r.val) 8 := by rw [regsOfBlock_toBytes_eq_columns, columns_eq_pack_col]
    _ = (unpack (pack (col X c)))[r] := (unpack_byte r r.isLt _).symm
    _ = X[r][c] := by rw [unpack_pack, col_entry]

/-- Two block ciphers on states of which the second undoes the first, each loading DIN and storing DOUT. -/
theorem stored_roundTrip {f g : Matrix → Matrix} (h : Function.LeftInverse g f) (din : Vector Word32 4) :
    regsOfBlock (toBytes (g (toState (blockOfRegs (regsOfBlock (toBytes (f (toState (blockOfRegs din))))))))) =
      din := by
  rw [toState_blockOfRegs_stored, h, toBytes_toState, regsOfBlock_blockOfRegs]

/-- Settles O38: on states decryption undoes encryption, round by round, and so encryption undoes decryption. -/
theorem encryptionAndDecryptionRoundTrip : Obligations.EncryptionAndDecryptionRoundTrip := by
  intro s hbusy
  have hdecrypt := decryptState_encryptState s.W s.nr.toNat
  exact ⟨⟨_, _, exec_busy .encb s hbusy, exec_busy .decb _ rfl, stored_roundTrip hdecrypt s.din⟩,
    ⟨_, _, exec_busy .decb s hbusy, exec_busy .encb _ rfl, stored_roundTrip (Matrix.leftInverse_symm hdecrypt) s.din⟩⟩

/-! ### What a block depends on (R207) -/

section Agree

variable {V W : Vector Quad 60} {nr : Nat} (h : ∀ i, i < 4 * (nr + 1) → expandedWord V i = expandedWord W i)

include h

theorem roundKey_congr {rnd : Nat} (hrnd : rnd ≤ nr) : roundKey V rnd = roundKey W rnd := by
  apply Matrix.ext_entries
  intro r c
  simp [h (4 * rnd + c.val) (by omega)]

theorem forwardRounds_congr (M : Matrix) : ∀ n ≤ nr, forwardRounds V nr n M = forwardRounds W nr n M
  | 0, _ => rfl
  | n + 1, hn => by
    rw [forwardRounds_succ, forwardRounds_succ, forwardRounds_congr M n (Nat.le_of_succ_le hn), roundKey_congr h hn]

theorem inverseRounds_congr : ∀ n ≤ nr, ∀ M, inverseRounds V n M = inverseRounds W n M
  | 0, _, _ => rfl
  | n + 1, hn, M => by
    have hround : inverseRound V n M = inverseRound W n M := by
      rw [inverseRound, inverseRound, roundKey_congr h (Nat.le_of_succ_le hn)]
    rw [inverseRounds, inverseRounds, hround, inverseRounds_congr n (Nat.le_of_succ_le hn)]

theorem encryptState_congr (M : Matrix) : encryptState V nr M = encryptState W nr M := by
  rw [encryptState, encryptState, roundKey_congr h (Nat.zero_le _), forwardRounds_congr h _ nr le_rfl]

theorem decryptState_congr (M : Matrix) : decryptState V nr M = decryptState W nr M := by
  rw [decryptState, decryptState, roundKey_congr h le_rfl, inverseRounds_congr h nr le_rfl]

end Agree

/-- Settles O39: the pseudocodes read DIN, NR and round keys 0 to NR. -/
theorem blocksAreIndependent : Obligations.BlocksAreIndependent := by
  rintro s t hs ht hdin hnr hwords i (rfl | rfl)
  · have hstate : encryptState s.W s.nr.toNat (toState (blockOfRegs s.din)) =
        encryptState t.W t.nr.toNat (toState (blockOfRegs t.din)) := by
      rw [← hdin, ← hnr, encryptState_congr hwords]
    have hkey : roundKey s.W s.nr.toNat = roundKey t.W t.nr.toNat := by rw [← hnr, roundKey_congr hwords le_rfl]
    exact ⟨_, _, exec_busy .encb s hs, exec_busy .encb t ht, congrArg (regsOfBlock <| toBytes ·) hstate, hstate, hkey⟩
  · have hstate : decryptState s.W s.nr.toNat (toState (blockOfRegs s.din)) =
        decryptState t.W t.nr.toNat (toState (blockOfRegs t.din)) := by
      rw [← hdin, ← hnr, decryptState_congr hwords]
    have hkey : roundKey s.W 0 = roundKey t.W 0 := roundKey_congr hwords (Nat.zero_le _)
    exact ⟨_, _, exec_busy .decb s hs, exec_busy .decb t ht, congrArg (regsOfBlock <| toBytes ·) hstate, hstate, hkey⟩

/-! ### What the expansion depends on (R138) -/

theorem expandKey_congr {ks : BitVec 2} {Nr Nk : Nat} (hsize : keySize ks = some (Nr, Nk)) {key key' : Vector Word32 8}
    (hkey : ∀ i, i < Nk → key[i]? = key'[i]?) (V W : Vector Quad 60) : ∀ i, i < 4 * (Nr + 1) →
    expandedWord (expandKey key Nr Nk V) i = expandedWord (expandKey key' Nr Nk W) i := by
  intro i
  induction i using Nat.strong_induction_on with
  | _ i ih =>
    intro hi
    obtain ⟨hpos, -, -⟩ := keySize_bounds hsize
    by_cases hraw : i < Nk
    · rw [expandKey_raw hsize key V hraw, expandKey_raw hsize key' W hraw, rawKeyWord, rawKeyWord, hkey i hraw]
    · rw [expandKey_recurrence hsize key V (by omega) hi, expandKey_recurrence hsize key' W (by omega) hi,
        ih (i - 1) (by omega) (by omega), ih (i - Nk) (by omega) (by omega)]

/-- Settles O40: each word is a raw key word or the recurrence's of earlier words, so by induction both stores agree. -/
theorem expansionIsDeterministic : Obligations.ExpansionIsDeterministic := by
  intro s t Nr Nk hs ht hks hsize hkey
  have hsize' : keySize t.ks = some (Nr, Nk) := hks ▸ hsize
  have hexec {u : State} (hu : u.busy = true) (husize : keySize u.ks = some (Nr, Nk)) : exec .expand u =
      .next (complete (setSchedule (expandKey u.key Nr Nk u.W) (BitVec.ofNat 4 Nr) u)) := by
    rw [exec_busy .expand u hu, effectOf, expandEffect_of_keySize husize]
  refine ⟨_, _, hexec hs hsize, hexec ht hsize', ?nr, ?words⟩
  case nr => simp only [complete_nr, setSchedule_nr]
  case words =>
    simp only [complete_W, setSchedule_W]
    exact expandKey_congr hsize hkey s.W t.W

end Sys2Proof.Machine
end
